-- ==== Sys2Proof/Word.lean ====
section
/-! DEFINITION. The byte, the unit every buffer view is made of (20_memory.md R50). -/

namespace Sys2Proof

/-- One byte of a view, a tag, an `id`, a `sequence`, a trailer (00_scope.md R9). -/
abbrev Byte := BitVec 8

end Sys2Proof
end

