-- ==== Sys2Proof/Config.lean ====
section
/-! DEFINITION. What the spec leaves open as a parameter: constants without a body, so that no proof can lean on
a value of theirs. -/

namespace Sys2Proof

/-- `CRC8_TABLE` (10_state.md R24, 41_crc8.md R155): fixed, total, from 8 bits to 8 bits, its values not in the
source. OPEN parameter, log entry 2. No statement may assume a property of it. -/
opaque Config.crc8Table : Byte → Byte

/-- How many bytes of its writes a transaction that reset cuts off has made: "any prefix" (70_reset_and_hazards.md
R260, 93_implementation_defined.md U8). A free value, one per draw, log entry 3. -/
opaque Config.resetPrefix : Nat → Nat

end Sys2Proof
end

