-- ==== Sys2Proof/Syntax/Message.lean ====
section
/-! DEFINITION. The Message Model (10_state.md R30 to R37), the statuses (60_exceptions.md R230), the buffer view
(20_memory.md R50) and the operation request (10_state.md R22), as plain data. -/

namespace Sys2Proof

/-- MessageType (10_state.md R30), in the source's order. -/
inductive MessageType where
  | error | sensorEnable | sensorDisable | sensorData | sensorGet | time | actuator | actuatorAck
  deriving DecidableEq, Repr

/-- SensorType (10_state.md R31); `sensorTypeEnd` is the sentinel, accepted as a value (90_conflicts.md C3). -/
inductive SensorType where
  | unknown | proximity | gyroscope | accelerometer | magnetometer | orientation | servo | motor | led | mouse
  | sbus | sensorTypeEnd
  deriving DecidableEq, Repr

/-- ActuatorType (10_state.md R32). -/
inductive ActuatorType where
  | servo | motor | led
  deriving DecidableEq, Repr

/-- ErrorCode (10_state.md R33): data carried in an ERROR frame, not a status of the core. -/
inductive ErrorCode where
  | invalidMessageType | invalidSensorType | invalidSensorId | sensorEnableFailed | sensorDisableFailed
  | sensorDataFailed | sensorTimeout
  deriving DecidableEq, Repr

/-- The subtype of a Message: a sensor tag or an actuator tag (10_state.md R34). -/
inductive MsgSubtype where
  | sensor (s : SensorType)
  | actuator (a : ActuatorType)
  deriving DecidableEq, Repr

/-- The eight SBUS channels, `u16` each, index 0 to 7 (10_state.md R35). -/
structure Channels where
  c0 : BitVec 16
  c1 : BitVec 16
  c2 : BitVec 16
  c3 : BitVec 16
  c4 : BitVec 16
  c5 : BitVec 16
  c6 : BitVec 16
  c7 : BitVec 16
  deriving DecidableEq, Repr

/-- The payload variants and their fields in wire order (10_state.md R35). `ε` is what an `Error` payload holds:
an `ErrorCode` in a Message, the raw code byte in a frame not yet past the check of 42_message_codec.md R197.
Signed fields are core Lean's two's-complement integers (30_encoding.md R97), log entry 15. -/
inductive Payload (ε : Type) where
  | error (code : ε)
  | time (micros : BitVec 64)
  | motor (speed : Int16)
  | servo (angle : Int16)
  | proximity (distance : Int16)
  | accelerometer (x y z : Int32)
  | gyroscope (x y z : Int32)
  | magnetometer (x y z : Int32)
  | orientation (x y z : Int32)
  | led (value : Byte)
  | mouse (x y : Int32) (duration : BitVec 32) (surfaceQuality : Byte)
  | sbus (channels : Channels) (flags : Byte)
  | empty
  deriving DecidableEq, Repr

/-- The names of the payload variants: what `shape(type, subtype)` answers (30_encoding.md R95). -/
inductive Variant where
  | error | time | motor | servo | proximity | accelerometer | gyroscope | magnetometer | orientation | led
  | mouse | sbus | empty
  deriving DecidableEq, Repr

/-- The Message record (10_state.md R34), over what its `Error` payload holds. -/
structure MessageOf (ε : Type) where
  type : MessageType
  subtype : MsgSubtype
  id : Byte
  sequence : Byte
  payload : Payload ε
  deriving DecidableEq, Repr

/-- A Message (10_state.md R34). -/
abbrev Message := MessageOf ErrorCode

/-- A frame taken apart (30_encoding.md R90): the record its bytes before the trailer stand for, and the trailer. -/
structure WireFrame where
  message : MessageOf Byte
  trailer : Byte
  deriving DecidableEq, Repr

/-- The statuses of `RSP_STATUS` (60_exceptions.md R230). Code 7 is reserved and has no name here, so that
nothing can write it (93_implementation_defined.md U6). -/
inductive Status where
  | ok | checksumMismatch | invalidMessageType | invalidSensorType | invalidActuatorType | bufferTooShort
  | invalidErrorCode
  deriving DecidableEq, Repr

/-- A buffer view `(B, LEN)`: the range of the caller's storage from `base` on, `len` bytes long (20_memory.md
R50; log entry 20). -/
structure View where
  base : Nat
  len : Nat
  deriving DecidableEq, Repr

/-- An operation request: the request registers and the view bound to it (10_state.md R22, 30_encoding.md R80). A
register the operation does not read may be left empty (30_encoding.md R84). -/
structure Request where
  op : BitVec 4
  value : Option (BitVec 64) := none
  off : Option Nat := none
  n : Option Nat := none
  msg : Option Message := none
  view : View
  deriving DecidableEq, Repr

end Sys2Proof
end

