-- ==== Sys2Proof/Syntax.lean ====
section
/-! DEFINITION. The instructions: one constructor per row of spec/opcode_table.json, nine requests (30_encoding.md
R81, R82) and twenty-one frame kinds (30_encoding.md R95, R96). A request carries the operands its operation
reads and the view; a frame carries the fields of its bytes and its trailer `crc` (log entry 5). -/

namespace Sys2Proof

/-- One row of the opcode table with its operands. -/
inductive Instr where
  /-- `REQ_OP = 0x1`, 40_integer_codec.md R130: `v` is `REQ_VALUE[15:0]`. -/
  | write16 (v : BitVec 16) (off : Nat) (view : View)
  /-- `REQ_OP = 0x2`, 40_integer_codec.md R131: `v` is `REQ_VALUE[31:0]`. -/
  | write32 (v : BitVec 32) (off : Nat) (view : View)
  /-- `REQ_OP = 0x3`, 40_integer_codec.md R132. -/
  | write64 (v : BitVec 64) (off : Nat) (view : View)
  /-- `REQ_OP = 0x4`, 40_integer_codec.md R133. -/
  | read16 (off : Nat) (view : View)
  /-- `REQ_OP = 0x5`, 40_integer_codec.md R134. -/
  | read32 (off : Nat) (view : View)
  /-- `REQ_OP = 0x6`, 40_integer_codec.md R135. -/
  | read64 (off : Nat) (view : View)
  /-- `REQ_OP = 0x7`, 41_crc8.md R151. -/
  | crc8 (off n : Nat) (view : View)
  /-- `REQ_OP = 0x8`, 42_message_codec.md R170. -/
  | encode (msg : Message) (view : View)
  /-- `REQ_OP = 0x9`, 42_message_codec.md R185. -/
  | decode (view : View)
  /-- K1: byte0 `0x00`, payload byte 4, trailer at 5. `code` is the raw byte (42_message_codec.md R197). -/
  | k1Error (subtype : SensorType) (id sequence code crc : Byte)
  /-- K2: byte0 `0x01`, no payload. -/
  | k2SensorEnable (subtype : SensorType) (id sequence crc : Byte)
  /-- K3: byte0 `0x02`, no payload. -/
  | k3SensorDisable (subtype : SensorType) (id sequence crc : Byte)
  /-- K4: byte0 `0x04`, no payload. -/
  | k4SensorGet (subtype : SensorType) (id sequence crc : Byte)
  /-- K5: byte0 `0x05`, payload bytes 4 to 11, trailer at 12. -/
  | k5Time (subtype : SensorType) (id sequence : Byte) (micros : BitVec 64) (crc : Byte)
  /-- K6: byte0 `0x07`, no payload. -/
  | k6ActuatorAck (subtype : SensorType) (id sequence crc : Byte)
  /-- K7: byte0 `0x06`, byte1 `0x00`, payload bytes 4 and 5. -/
  | k7ActuatorServo (id sequence : Byte) (angle : Int16) (crc : Byte)
  /-- K8: byte0 `0x06`, byte1 `0x01`, payload bytes 4 and 5. -/
  | k8ActuatorMotor (id sequence : Byte) (speed : Int16) (crc : Byte)
  /-- K9: byte0 `0x06`, byte1 `0x02`, payload byte 4. -/
  | k9ActuatorLed (id sequence value crc : Byte)
  /-- K10: byte0 `0x03`, byte1 `0x00`, no payload. -/
  | k10SensorDataUnknown (id sequence crc : Byte)
  /-- K11: byte0 `0x03`, byte1 `0x01`, payload bytes 4 and 5. -/
  | k11SensorDataProximity (id sequence : Byte) (distance : Int16) (crc : Byte)
  /-- K12: byte0 `0x03`, byte1 `0x02`, payload bytes 4 to 15. -/
  | k12SensorDataGyroscope (id sequence : Byte) (x y z : Int32) (crc : Byte)
  /-- K13: byte0 `0x03`, byte1 `0x03`, payload bytes 4 to 15. -/
  | k13SensorDataAccelerometer (id sequence : Byte) (x y z : Int32) (crc : Byte)
  /-- K14: byte0 `0x03`, byte1 `0x04`, payload bytes 4 to 15. -/
  | k14SensorDataMagnetometer (id sequence : Byte) (x y z : Int32) (crc : Byte)
  /-- K15: byte0 `0x03`, byte1 `0x05`, payload bytes 4 to 15. -/
  | k15SensorDataOrientation (id sequence : Byte) (x y z : Int32) (crc : Byte)
  /-- K16: byte0 `0x03`, byte1 `0x06`, payload bytes 4 and 5. -/
  | k16SensorDataServo (id sequence : Byte) (angle : Int16) (crc : Byte)
  /-- K17: byte0 `0x03`, byte1 `0x07`, payload bytes 4 and 5. -/
  | k17SensorDataMotor (id sequence : Byte) (speed : Int16) (crc : Byte)
  /-- K18: byte0 `0x03`, byte1 `0x08`, payload byte 4. -/
  | k18SensorDataLed (id sequence value crc : Byte)
  /-- K19: byte0 `0x03`, byte1 `0x09`, payload bytes 4 to 16. -/
  | k19SensorDataMouse (id sequence : Byte) (x y : Int32) (duration : BitVec 32) (surfaceQuality crc : Byte)
  /-- K20: byte0 `0x03`, byte1 `0x0A`, payload bytes 4 to 20. -/
  | k20SensorDataSbus (id sequence : Byte) (channels : Channels) (flags crc : Byte)
  /-- K21: byte0 `0x03`, byte1 `0x0B`, no payload. -/
  | k21SensorDataSensorTypeEnd (id sequence crc : Byte)
  deriving DecidableEq, Repr

end Sys2Proof
end

