-- ==== Sys2Proof/Decode.lean ====
section
/-! DEFINITION. The two encodings (30_encoding.md): the operation request and the frame, with the byte-order
helpers, the tag code maps and the one dispatch table both directions share (30_encoding.md R94, R95); then the
decoder, total on any request and any bytes, and the encoder. -/

namespace Sys2Proof

/-! ### Byte order (20_memory.md R53, 00_scope.md R12) -/

/-- The 2 bytes of a 16-bit value, lowest offset first. -/
def bytes16 (v : BitVec 16) : List Byte := [v.extractLsb' 0 8, v.extractLsb' 8 8]

/-- The 4 bytes of a 32-bit value, lowest offset first. -/
def bytes32 (v : BitVec 32) : List Byte :=
  [v.extractLsb' 0 8, v.extractLsb' 8 8, v.extractLsb' 16 8, v.extractLsb' 24 8]

/-- The 8 bytes of a 64-bit value, lowest offset first. -/
def bytes64 (v : BitVec 64) : List Byte :=
  [v.extractLsb' 0 8, v.extractLsb' 8 8, v.extractLsb' 16 8, v.extractLsb' 24 8,
   v.extractLsb' 32 8, v.extractLsb' 40 8, v.extractLsb' 48 8, v.extractLsb' 56 8]

/-- `MemRead(o, 2)` over the bytes `rd` (00_scope.md R12). -/
def memRead16 (rd : Nat → Byte) (o : Nat) : BitVec 16 := rd (o + 1) ++ rd o

/-- `MemRead(o, 4)` over the bytes `rd`. -/
def memRead32 (rd : Nat → Byte) (o : Nat) : BitVec 32 := rd (o + 3) ++ rd (o + 2) ++ rd (o + 1) ++ rd o

/-- `MemRead(o, 8)` over the bytes `rd`. -/
def memRead64 (rd : Nat → Byte) (o : Nat) : BitVec 64 :=
  rd (o + 7) ++ rd (o + 6) ++ rd (o + 5) ++ rd (o + 4) ++ rd (o + 3) ++ rd (o + 2) ++ rd (o + 1) ++ rd o

/-! ### Tag codes (10_state.md R30 to R33; log entry 8) -/

/-- MessageType codes, 10_state.md R30. -/
def MessageType.code : MessageType → Byte
  | .error => 0x00
  | .sensorEnable => 0x01
  | .sensorDisable => 0x02
  | .sensorData => 0x03
  | .sensorGet => 0x04
  | .time => 0x05
  | .actuator => 0x06
  | .actuatorAck => 0x07

/-- SensorType codes, 10_state.md R31. -/
def SensorType.code : SensorType → Byte
  | .unknown => 0x00
  | .proximity => 0x01
  | .gyroscope => 0x02
  | .accelerometer => 0x03
  | .magnetometer => 0x04
  | .orientation => 0x05
  | .servo => 0x06
  | .motor => 0x07
  | .led => 0x08
  | .mouse => 0x09
  | .sbus => 0x0A
  | .sensorTypeEnd => 0x0B

/-- ActuatorType codes, 10_state.md R32. -/
def ActuatorType.code : ActuatorType → Byte
  | .servo => 0x00
  | .motor => 0x01
  | .led => 0x02

/-- ErrorCode codes, 10_state.md R33. -/
def ErrorCode.code : ErrorCode → Byte
  | .invalidMessageType => 0x00
  | .invalidSensorType => 0x01
  | .invalidSensorId => 0x02
  | .sensorEnableFailed => 0x03
  | .sensorDisableFailed => 0x04
  | .sensorDataFailed => 0x05
  | .sensorTimeout => 0x06

/-- The code a subtype has in byte1 (30_encoding.md R92). -/
def MsgSubtype.code : MsgSubtype → Byte
  | .sensor s => s.code
  | .actuator a => a.code

/-- `decode_MT` (00_scope.md R14): the MessageType a byte names, if any. -/
def messageTypeOf (b : Byte) : Option MessageType :=
  [MessageType.error, .sensorEnable, .sensorDisable, .sensorData, .sensorGet, .time, .actuator, .actuatorAck].find?
    (fun t => t.code == b)

/-- `decode_ST`: the SensorType a byte names, the sentinel among them (90_conflicts.md C3). -/
def sensorTypeOf (b : Byte) : Option SensorType :=
  [SensorType.unknown, .proximity, .gyroscope, .accelerometer, .magnetometer, .orientation, .servo, .motor, .led,
    .mouse, .sbus, .sensorTypeEnd].find? (fun t => t.code == b)

/-- `decode_AT`: the ActuatorType a byte names, if any. -/
def actuatorTypeOf (b : Byte) : Option ActuatorType :=
  [ActuatorType.servo, .motor, .led].find? (fun t => t.code == b)

/-- The ErrorCode a byte names, if any (10_state.md R33). -/
def errorCodeOf (b : Byte) : Option ErrorCode :=
  [ErrorCode.invalidMessageType, .invalidSensorType, .invalidSensorId, .sensorEnableFailed, .sensorDisableFailed,
    .sensorDataFailed, .sensorTimeout].find? (fun t => t.code == b)

/-! ### The dispatch table (30_encoding.md R95, R99) -/

/-- `shape(type, subtype)` (30_encoding.md R95). A pair outside the space of 10_state.md R36 is in no row; it
answers `empty`, and nothing asks for it: `Message.wf` and `subtypeOf` rule the pair out first. -/
def shape (t : MessageType) (s : MsgSubtype) : Variant :=
  match t with
  | .error => .error
  | .time => .time
  | .sensorEnable => .empty
  | .sensorDisable => .empty
  | .sensorGet => .empty
  | .actuatorAck => .empty
  | .actuator =>
    match s with
    | .actuator .servo => .servo
    | .actuator .motor => .motor
    | .actuator .led => .led
    | .sensor _ => .empty
  | .sensorData =>
    match s with
    | .sensor .unknown => .empty
    | .sensor .proximity => .proximity
    | .sensor .gyroscope => .gyroscope
    | .sensor .accelerometer => .accelerometer
    | .sensor .magnetometer => .magnetometer
    | .sensor .orientation => .orientation
    | .sensor .servo => .servo
    | .sensor .motor => .motor
    | .sensor .led => .led
    | .sensor .mouse => .mouse
    | .sensor .sbus => .sbus
    | .sensor .sensorTypeEnd => .empty
    | .actuator _ => .empty

/-- The bytes a variant takes (10_state.md R35). -/
def Variant.size : Variant → Nat
  | .error => 1
  | .time => 8
  | .motor => 2
  | .servo => 2
  | .proximity => 2
  | .accelerometer => 12
  | .gyroscope => 12
  | .magnetometer => 12
  | .orientation => 12
  | .led => 1
  | .mouse => 13
  | .sbus => 17
  | .empty => 0

/-- `payload_len(type, subtype)`, the N column of 30_encoding.md R95 (R99). -/
def payloadLen (t : MessageType) (s : MsgSubtype) : Nat := (shape t s).size

/-- `frame_len(type, subtype)` (30_encoding.md R101). -/
def frameLen (t : MessageType) (s : MsgSubtype) : Nat := 4 + payloadLen t s + 1

/-- Which variant a payload is. -/
def Payload.variant {ε : Type} : Payload ε → Variant
  | .error _ => .error
  | .time _ => .time
  | .motor _ => .motor
  | .servo _ => .servo
  | .proximity _ => .proximity
  | .accelerometer _ _ _ => .accelerometer
  | .gyroscope _ _ _ => .gyroscope
  | .magnetometer _ _ _ => .magnetometer
  | .orientation _ _ _ => .orientation
  | .led _ => .led
  | .mouse _ _ _ _ => .mouse
  | .sbus _ _ => .sbus
  | .empty => .empty

/-- Whether a subtype is in the space its type selects (10_state.md R36). -/
def MsgSubtype.inSpace (t : MessageType) : MsgSubtype → Bool
  | .actuator _ => t == .actuator
  | .sensor _ => t != .actuator

/-- `WF` (10_state.md R37): the subtype is in the type's space, and the payload is the variant the pair names. Its
third clause holds of every `Message` by typing. -/
def MessageOf.wf {ε : Type} (m : MessageOf ε) : Bool :=
  m.subtype.inSpace m.type && m.payload.variant == shape m.type m.subtype

/-! ### Payload fields (30_encoding.md R96 to R98, 42_message_codec.md R175, R194) -/

/-- `write_payload` (42_message_codec.md R175) as the bytes it writes from offset 4 on, in increasing offset. -/
def payloadBytes : Payload Byte → List Byte
  | .error code => [code]
  | .time micros => bytes64 micros
  | .motor speed => bytes16 speed.toBitVec
  | .servo angle => bytes16 angle.toBitVec
  | .proximity distance => bytes16 distance.toBitVec
  | .accelerometer x y z => bytes32 x.toBitVec ++ bytes32 y.toBitVec ++ bytes32 z.toBitVec
  | .gyroscope x y z => bytes32 x.toBitVec ++ bytes32 y.toBitVec ++ bytes32 z.toBitVec
  | .magnetometer x y z => bytes32 x.toBitVec ++ bytes32 y.toBitVec ++ bytes32 z.toBitVec
  | .orientation x y z => bytes32 x.toBitVec ++ bytes32 y.toBitVec ++ bytes32 z.toBitVec
  | .led value => [value]
  | .mouse x y duration quality => bytes32 x.toBitVec ++ bytes32 y.toBitVec ++ bytes32 duration ++ [quality]
  | .sbus c flags =>
    bytes16 c.c0 ++ bytes16 c.c1 ++ bytes16 c.c2 ++ bytes16 c.c3 ++ bytes16 c.c4 ++ bytes16 c.c5 ++ bytes16 c.c6 ++
      bytes16 c.c7 ++ [flags]
  | .empty => []

/-- A signed 16-bit field: `signed_16(MemRead(o, 2))` (30_encoding.md R97). -/
def fieldI16 (rd : Nat → Byte) (o : Nat) : Int16 := Int16.ofBitVec (memRead16 rd o)

/-- A signed 32-bit field: `signed_32(MemRead(o, 4))` (30_encoding.md R97). -/
def fieldI32 (rd : Nat → Byte) (o : Nat) : Int32 := Int32.ofBitVec (memRead32 rd o)

/-- `read_payload` (42_message_codec.md R194) over the bytes `rd` of a frame. -/
def readPayload (v : Variant) (rd : Nat → Byte) : Payload Byte :=
  match v with
  | .error => .error (rd 4)
  | .time => .time (memRead64 rd 4)
  | .motor => .motor (fieldI16 rd 4)
  | .servo => .servo (fieldI16 rd 4)
  | .proximity => .proximity (fieldI16 rd 4)
  | .accelerometer => .accelerometer (fieldI32 rd 4) (fieldI32 rd 8) (fieldI32 rd 12)
  | .gyroscope => .gyroscope (fieldI32 rd 4) (fieldI32 rd 8) (fieldI32 rd 12)
  | .magnetometer => .magnetometer (fieldI32 rd 4) (fieldI32 rd 8) (fieldI32 rd 12)
  | .orientation => .orientation (fieldI32 rd 4) (fieldI32 rd 8) (fieldI32 rd 12)
  | .led => .led (rd 4)
  | .mouse => .mouse (fieldI32 rd 4) (fieldI32 rd 8) (memRead32 rd 12) (rd 16)
  | .sbus =>
    .sbus ⟨memRead16 rd 4, memRead16 rd 6, memRead16 rd 8, memRead16 rd 10, memRead16 rd 12, memRead16 rd 14,
      memRead16 rd 16, memRead16 rd 18⟩ (rd 20)
  | .empty => .empty

/-- A payload with its error code as the byte it is on the wire (30_encoding.md R98: "for a tag field it is the
tag's code"). -/
def Payload.toWire : Payload ErrorCode → Payload Byte
  | .error code => .error code.code
  | .time micros => .time micros
  | .motor speed => .motor speed
  | .servo angle => .servo angle
  | .proximity distance => .proximity distance
  | .accelerometer x y z => .accelerometer x y z
  | .gyroscope x y z => .gyroscope x y z
  | .magnetometer x y z => .magnetometer x y z
  | .orientation x y z => .orientation x y z
  | .led value => .led value
  | .mouse x y duration quality => .mouse x y duration quality
  | .sbus c flags => .sbus c flags
  | .empty => .empty

/-- The payload a wire payload stands for; none when its error byte names no ErrorCode (42_message_codec.md R197). -/
def Payload.ofWire : Payload Byte → Option (Payload ErrorCode)
  | .error b => (errorCodeOf b).map .error
  | .time micros => some (.time micros)
  | .motor speed => some (.motor speed)
  | .servo angle => some (.servo angle)
  | .proximity distance => some (.proximity distance)
  | .accelerometer x y z => some (.accelerometer x y z)
  | .gyroscope x y z => some (.gyroscope x y z)
  | .magnetometer x y z => some (.magnetometer x y z)
  | .orientation x y z => some (.orientation x y z)
  | .led value => some (.led value)
  | .mouse x y duration quality => some (.mouse x y duration quality)
  | .sbus c flags => some (.sbus c flags)
  | .empty => some .empty

/-- A Message as it stands on the wire, less header codes and trailer. -/
def MessageOf.toWire (m : Message) : MessageOf Byte :=
  { type := m.type, subtype := m.subtype, id := m.id, sequence := m.sequence, payload := m.payload.toWire }

/-- The Message a wire record stands for, if its error code is one (42_message_codec.md R197, R198). -/
def MessageOf.ofWire (m : MessageOf Byte) : Option Message :=
  m.payload.ofWire.map fun p =>
    { type := m.type, subtype := m.subtype, id := m.id, sequence := m.sequence, payload := p }

/-- The bytes `[0, 4+N)` of a frame: header (30_encoding.md R91 to R93, 42_message_codec.md R173), then payload. -/
def MessageOf.body (m : MessageOf Byte) : List Byte :=
  [m.type.code, m.subtype.code, m.id, m.sequence] ++ payloadBytes m.payload

/-- All the bytes of a frame (30_encoding.md R90). -/
def WireFrame.bytes (f : WireFrame) : List Byte := f.message.body ++ [f.trailer]

/-! ### Decoding a frame (42_message_codec.md R185 steps 1 to 4) -/

/-- The byte source of a list of bytes, for offsets inside it. -/
def sourceOf (bs : List Byte) (o : Nat) : Byte := bs.getD o 0

/-- byte1 read as an actuator tag under ACTUATOR and as a sensor tag under every other type
(42_message_codec.md R191). -/
def subtypeOf (t : MessageType) (b : Byte) : Except Status MsgSubtype :=
  match t with
  | .actuator =>
    match actuatorTypeOf b with
    | some a => .ok (.actuator a)
    | none => .error .invalidActuatorType
  | .error | .sensorEnable | .sensorDisable | .sensorData | .sensorGet | .time | .actuatorAck =>
    match sensorTypeOf b with
    | some s => .ok (.sensor s)
    | none => .error .invalidSensorType

/-- Steps 1 to 4 of DECODE over `len` bytes `rd`: each tag is checked as it is read, and each read against `len`
before it is made (42_message_codec.md R187 to R194, 60_exceptions.md R240 items 1 to 6). -/
def decodeFrame (len : Nat) (rd : Nat → Byte) : Except Status WireFrame :=
  if len < 1 then .error .bufferTooShort
  else match messageTypeOf (rd 0) with
  | none => .error .invalidMessageType
  | some t =>
    if len < 2 then .error .bufferTooShort
    else match subtypeOf t (rd 1) with
    | .error e => .error e
    | .ok s =>
      if len < 4 then .error .bufferTooShort
      else if len < 5 + payloadLen t s then .error .bufferTooShort
      else .ok
        { message := { type := t, subtype := s, id := rd 2, sequence := rd 3, payload := readPayload (shape t s) rd }
          trailer := rd (4 + payloadLen t s) }

/-! ### Frames as instructions (30_encoding.md R95) -/

/-- The rows K10 to K21 of the dispatch table: a SENSOR_DATA frame's row, where its payload is the one its subtype
selects. -/
def sensorDataInstr (s : SensorType) (id sequence : Byte) (p : Payload Byte) (crc : Byte) : Option Instr :=
  match p with
  | .empty =>
    if s = .unknown then some (.k10SensorDataUnknown id sequence crc)
    else if s = .sensorTypeEnd then some (.k21SensorDataSensorTypeEnd id sequence crc)
    else none
  | .proximity d => if s = .proximity then some (.k11SensorDataProximity id sequence d crc) else none
  | .gyroscope x y z => if s = .gyroscope then some (.k12SensorDataGyroscope id sequence x y z crc) else none
  | .accelerometer x y z =>
    if s = .accelerometer then some (.k13SensorDataAccelerometer id sequence x y z crc) else none
  | .magnetometer x y z =>
    if s = .magnetometer then some (.k14SensorDataMagnetometer id sequence x y z crc) else none
  | .orientation x y z => if s = .orientation then some (.k15SensorDataOrientation id sequence x y z crc) else none
  | .servo angle => if s = .servo then some (.k16SensorDataServo id sequence angle crc) else none
  | .motor speed => if s = .motor then some (.k17SensorDataMotor id sequence speed crc) else none
  | .led value => if s = .led then some (.k18SensorDataLed id sequence value crc) else none
  | .mouse x y duration quality =>
    if s = .mouse then some (.k19SensorDataMouse id sequence x y duration quality crc) else none
  | .sbus channels flags => if s = .sbus then some (.k20SensorDataSbus id sequence channels flags crc) else none
  | .error _ => none
  | .time _ => none

/-- The row of the dispatch table a frame belongs to, with the frame's fields; none for a record that is in no row. -/
def WireFrame.toInstr (f : WireFrame) : Option Instr :=
  match f.message.type with
  | .error =>
    match f.message.subtype, f.message.payload with
    | .sensor s, .error code => some (.k1Error s f.message.id f.message.sequence code f.trailer)
    | _, _ => none
  | .sensorEnable =>
    match f.message.subtype, f.message.payload with
    | .sensor s, .empty => some (.k2SensorEnable s f.message.id f.message.sequence f.trailer)
    | _, _ => none
  | .sensorDisable =>
    match f.message.subtype, f.message.payload with
    | .sensor s, .empty => some (.k3SensorDisable s f.message.id f.message.sequence f.trailer)
    | _, _ => none
  | .sensorGet =>
    match f.message.subtype, f.message.payload with
    | .sensor s, .empty => some (.k4SensorGet s f.message.id f.message.sequence f.trailer)
    | _, _ => none
  | .time =>
    match f.message.subtype, f.message.payload with
    | .sensor s, .time micros => some (.k5Time s f.message.id f.message.sequence micros f.trailer)
    | _, _ => none
  | .actuatorAck =>
    match f.message.subtype, f.message.payload with
    | .sensor s, .empty => some (.k6ActuatorAck s f.message.id f.message.sequence f.trailer)
    | _, _ => none
  | .actuator =>
    match f.message.subtype, f.message.payload with
    | .actuator .servo, .servo angle => some (.k7ActuatorServo f.message.id f.message.sequence angle f.trailer)
    | .actuator .motor, .motor speed => some (.k8ActuatorMotor f.message.id f.message.sequence speed f.trailer)
    | .actuator .led, .led value => some (.k9ActuatorLed f.message.id f.message.sequence value f.trailer)
    | _, _ => none
  | .sensorData =>
    match f.message.subtype with
    | .sensor s => sensorDataInstr s f.message.id f.message.sequence f.message.payload f.trailer
    | .actuator _ => none

/-- What a row stands for: a request, with the registers its operation does not read left empty (30_encoding.md
R81, R82, R84), or a frame (30_encoding.md R95, R96). -/
def Instr.parts : Instr → Request ⊕ WireFrame
  | .write16 v off view => .inl { op := 0x1, value := some (v.setWidth 64), off := some off, view }
  | .write32 v off view => .inl { op := 0x2, value := some (v.setWidth 64), off := some off, view }
  | .write64 v off view => .inl { op := 0x3, value := some v, off := some off, view }
  | .read16 off view => .inl { op := 0x4, off := some off, view }
  | .read32 off view => .inl { op := 0x5, off := some off, view }
  | .read64 off view => .inl { op := 0x6, off := some off, view }
  | .crc8 off n view => .inl { op := 0x7, off := some off, n := some n, view }
  | .encode msg view => .inl { op := 0x8, msg := some msg, view }
  | .decode view => .inl { op := 0x9, view }
  | .k1Error s i q code c => .inr ⟨⟨.error, .sensor s, i, q, .error code⟩, c⟩
  | .k2SensorEnable s i q c => .inr ⟨⟨.sensorEnable, .sensor s, i, q, .empty⟩, c⟩
  | .k3SensorDisable s i q c => .inr ⟨⟨.sensorDisable, .sensor s, i, q, .empty⟩, c⟩
  | .k4SensorGet s i q c => .inr ⟨⟨.sensorGet, .sensor s, i, q, .empty⟩, c⟩
  | .k5Time s i q micros c => .inr ⟨⟨.time, .sensor s, i, q, .time micros⟩, c⟩
  | .k6ActuatorAck s i q c => .inr ⟨⟨.actuatorAck, .sensor s, i, q, .empty⟩, c⟩
  | .k7ActuatorServo i q angle c => .inr ⟨⟨.actuator, .actuator .servo, i, q, .servo angle⟩, c⟩
  | .k8ActuatorMotor i q speed c => .inr ⟨⟨.actuator, .actuator .motor, i, q, .motor speed⟩, c⟩
  | .k9ActuatorLed i q value c => .inr ⟨⟨.actuator, .actuator .led, i, q, .led value⟩, c⟩
  | .k10SensorDataUnknown i q c => .inr ⟨⟨.sensorData, .sensor .unknown, i, q, .empty⟩, c⟩
  | .k11SensorDataProximity i q d c => .inr ⟨⟨.sensorData, .sensor .proximity, i, q, .proximity d⟩, c⟩
  | .k12SensorDataGyroscope i q x y z c => .inr ⟨⟨.sensorData, .sensor .gyroscope, i, q, .gyroscope x y z⟩, c⟩
  | .k13SensorDataAccelerometer i q x y z c =>
    .inr ⟨⟨.sensorData, .sensor .accelerometer, i, q, .accelerometer x y z⟩, c⟩
  | .k14SensorDataMagnetometer i q x y z c =>
    .inr ⟨⟨.sensorData, .sensor .magnetometer, i, q, .magnetometer x y z⟩, c⟩
  | .k15SensorDataOrientation i q x y z c =>
    .inr ⟨⟨.sensorData, .sensor .orientation, i, q, .orientation x y z⟩, c⟩
  | .k16SensorDataServo i q angle c => .inr ⟨⟨.sensorData, .sensor .servo, i, q, .servo angle⟩, c⟩
  | .k17SensorDataMotor i q speed c => .inr ⟨⟨.sensorData, .sensor .motor, i, q, .motor speed⟩, c⟩
  | .k18SensorDataLed i q value c => .inr ⟨⟨.sensorData, .sensor .led, i, q, .led value⟩, c⟩
  | .k19SensorDataMouse i q x y d sq c => .inr ⟨⟨.sensorData, .sensor .mouse, i, q, .mouse x y d sq⟩, c⟩
  | .k20SensorDataSbus i q ch flags c => .inr ⟨⟨.sensorData, .sensor .sbus, i, q, .sbus ch flags⟩, c⟩
  | .k21SensorDataSensorTypeEnd i q c => .inr ⟨⟨.sensorData, .sensor .sensorTypeEnd, i, q, .empty⟩, c⟩

/-- The frame a frame-kind row stands for; none for the nine requests. -/
def Instr.frame? (i : Instr) : Option WireFrame :=
  match i.parts with
  | .inl _ => none
  | .inr f => some f

/-! ### Decoding and encoding -/

/-- What an encoding can be: a request (30_encoding.md section 1) or the bytes of a frame (section 2). -/
inductive Encoded where
  | request (r : Request)
  | frame (bytes : List Byte)
  deriving DecidableEq, Repr

/-- Why a request names no instruction. -/
inductive RequestReject where
  /-- `REQ_OP` is `0x0` or `0xA` to `0xF` (30_encoding.md R83). -/
  | reservedOp
  /-- The request leaves a register empty that its operation reads (30_encoding.md R80, R82; log entry 7). -/
  | missingOperand
  deriving DecidableEq, Repr

/-- Why an encoding names no instruction. -/
inductive Reject where
  /-- A request that names none. -/
  | badRequest (why : RequestReject)
  /-- The bytes are no frame, for the reason DECODE reports (30_encoding.md R103, 42_message_codec.md R189). -/
  | badFrame (why : Status)
  /-- A record in no row of the dispatch table; no bytes decode to one. -/
  | noRow
  deriving DecidableEq, Repr

/-- The operation a request selects, with its operands (30_encoding.md R81, R82). High bits of `REQ_VALUE` above
the width used are dropped (92_eei_decisions.md D32), and registers the operation does not read are not looked at. -/
def decodeRequest (r : Request) : Except RequestReject Instr :=
  match r.op with
  | 0x1#4 =>
    match r.value, r.off with
    | some v, some o => .ok (.write16 (v.setWidth 16) o r.view)
    | _, _ => .error .missingOperand
  | 0x2#4 =>
    match r.value, r.off with
    | some v, some o => .ok (.write32 (v.setWidth 32) o r.view)
    | _, _ => .error .missingOperand
  | 0x3#4 =>
    match r.value, r.off with
    | some v, some o => .ok (.write64 v o r.view)
    | _, _ => .error .missingOperand
  | 0x4#4 =>
    match r.off with
    | some o => .ok (.read16 o r.view)
    | none => .error .missingOperand
  | 0x5#4 =>
    match r.off with
    | some o => .ok (.read32 o r.view)
    | none => .error .missingOperand
  | 0x6#4 =>
    match r.off with
    | some o => .ok (.read64 o r.view)
    | none => .error .missingOperand
  | 0x7#4 =>
    match r.off, r.n with
    | some o, some n => .ok (.crc8 o n r.view)
    | _, _ => .error .missingOperand
  | 0x8#4 =>
    match r.msg with
    | some m => .ok (.encode m r.view)
    | none => .error .missingOperand
  | 0x9#4 => .ok (.decode r.view)
  | _ => .error .reservedOp

/-- The frame kind a list of bytes starts with (30_encoding.md R102). -/
def decodeFrameInstr (bs : List Byte) : Except Reject Instr :=
  match decodeFrame bs.length (sourceOf bs) with
  | .error e => .error (.badFrame e)
  | .ok f =>
    match f.toInstr with
    | some i => .ok i
    | none => .error .noRow

/-- The decoder: total on any encoding, rejecting by name. -/
def decode : Encoded → Except Reject Instr
  | .request r =>
    match decodeRequest r with
    | .error e => .error (.badRequest e)
    | .ok i => .ok i
  | .frame bs => decodeFrameInstr bs

/-- The encoder, from 30_encoding.md R81, R82, R84 for requests and R90 to R98 for frames. -/
def encode (i : Instr) : Encoded :=
  match i.parts with
  | .inl r => .request r
  | .inr f => .frame f.bytes

/-! ### The opcode table's words (log entry 6) -/

/-- The longest encoding of the table, in bytes: MAX_FRAME (30_encoding.md R101). -/
def maxFrame : Nat := 22

/-- The Message whose tag codes and fields are all zero: what `REQ_MSG` is when its bits are. -/
def zeroMessage : Message :=
  { type := .error, subtype := .sensor .unknown, id := 0, sequence := 0, payload := .error .invalidMessageType }

/-- A request whose selector is `op` and whose operand registers are all zero, on a view of `maxFrame` bytes at
address 0. -/
def zeroRequest (op : BitVec 4) : Request :=
  { op, value := some 0, off := some 0, n := some 0, msg := some zeroMessage, view := ⟨0, maxFrame⟩ }

/-- The selector in a request word of the table: 4 bits (30_encoding.md R81); a larger number is no selector and
reads as the reserved code 0. -/
def tableSelector (w : Nat) : BitVec 4 := if w < 16 then BitVec.ofNat 4 w else 0

/-- The byte at `o` of a frame word of the table: byte0 is bits 7 to 0; bits from `nbits` on are 0. -/
def tableByte (nbits w o : Nat) : Byte := if 8 * o < nbits then BitVec.ofNat 8 (w / 2 ^ (8 * o)) else 0

/-- The bytes of a frame word of the table, zeros up to `maxFrame`. -/
def tableBytes (nbits w : Nat) : List Byte := (List.range maxFrame).map (tableByte nbits w)

/-- A word of at most 8 bits is a request's selector, a longer one a frame's header (log entry 6). -/
def tableEncoding (nbits w : Nat) : Encoded :=
  if nbits ≤ 8 then .request (zeroRequest (tableSelector w)) else .frame (tableBytes nbits w)

/-- The instruction the decoder reads from an opcode-table word. -/
def decodeTableWord (nbits w : Nat) : Option Instr :=
  match decode (tableEncoding nbits w) with
  | .ok i => some i
  | .error _ => none

end Sys2Proof
end

