-- ==== Sys2Proof/Machine/State.lean ====
section
/-! DEFINITION. The state of the codec core and of its surroundings (10_state.md R20 to R28, R40), the reasons a step
can stop, and the state right after reset. -/

namespace Sys2Proof.Machine

/-- The caller's storage, every buffer view's bytes (20_memory.md R50): (address, byte) pairs, addresses strictly
rising, no byte 0 listed, since an unlisted address reads as 0 (log entry 1). -/
abbrev Memory := List Host.Cell

/-- The response registers (10_state.md R23). A register the transaction did not write holds no value (log entry 23). -/
structure Response where
  status : Option Status := none
  value : Option (BitVec 64) := none
  count : Option Nat := none
  msg : Option Message := none
  deriving DecidableEq, Repr

/-- The names of the response registers (10_state.md R23). -/
inductive RspReg where
  | status | value | count | msg
  deriving DecidableEq, Repr

/-- What reading a response register gives. -/
inductive RspVal where
  | status (st : Status)
  | value (v : BitVec 64)
  | count (n : Nat)
  | msg (m : Message)
  deriving DecidableEq, Repr

/-- What the world around the core does next (log entry 4). -/
inductive Event where
  /-- The caller issues a request with its view (10_state.md R20, R22). -/
  | request (r : Request)
  /-- The caller reads a response register (10_state.md R23). -/
  | read (reg : RspReg)
  /-- A byte of the caller's storage is written between transactions, by the caller or by another agent (20_memory.md
  R50, R66). -/
  | store (address : Nat) (byte : BitVec 8)
  /-- From here on, these are the views of the transactions running in other instances, each listed once, and the ranges
  other agents write (20_memory.md R66; log entry 11). -/
  | others (running writing : List View)
  /-- Reset between transactions (70_reset_and_hazards.md R260). -/
  | reset
  /-- Reset asserted while the transaction of this request runs (70_reset_and_hazards.md R260). -/
  | cutByReset (r : Request)
  deriving DecidableEq, Repr

/-- Everything the spec gives the machine that outlasts a step. -/
structure State where
  /-- The request registers and the view bound for the transaction (10_state.md R22): no value until a request is issued
  (R40), and none after the transaction has returned (R39, 20_memory.md R71; log entries 14 and 23). -/
  req : Option Request
  /-- The response registers (10_state.md R23). -/
  rsp : Response
  /-- The caller's storage (20_memory.md R50). -/
  mem : Memory
  /-- The views of the transactions running in other instances (20_memory.md R66); the model's own field, log entry 11. -/
  running : List View
  /-- The ranges other agents write (20_memory.md R66); the model's own field, log entry 11. -/
  writing : List View
  /-- What happens next; the model's own field, log entry 4. -/
  program : List Event
  /-- How many free values have been drawn; the model's own field, log entry 3. -/
  draws : Nat
  deriving DecidableEq, Repr

/-- The model faults (60_exceptions.md R235): the source leaves the behaviour undefined. All are safe: the model stops
where the original does something no document gives. -/
inductive Fault where
  /-- `F_RANGE`, raised by WRITE16/32/64, READ16/32/64 and CRC8 out of the view's bounds (20_memory.md R56). Safe. -/
  | range
  /-- `F_CAPACITY`, raised by ENCODE on a view of fewer than 22 bytes (42_message_codec.md R171). Safe. -/
  | capacity
  /-- `F_UNWRITTEN`, raised by reading a response register that holds no value (10_state.md R23). Safe. -/
  | unwritten
  deriving DecidableEq, Repr

/-- The refusals (60_exceptions.md R238): requests without a meaning. All are safe. -/
inductive Refusal where
  /-- An instruction the model gives no meaning yet, by mnemonic; raised by exec's arm alone. Safe. -/
  | notModelled (mnemonic : String)
  /-- `Q_RESERVED_OP`, raised when a request is fetched (30_encoding.md R83). Safe. -/
  | reservedOp
  /-- `Q_SHARED_BUFFER`, raised when a request is taken in, when a store reaches into a running transaction's view, and
  when the other agents' ranges break a duty themselves (20_memory.md R66, 70_reset_and_hazards.md R266). Safe. -/
  | sharedBuffer
  /-- `Q_ILL_FORMED_MESSAGE`, raised by ENCODE (42_message_codec.md R172). Safe. -/
  | illFormedMessage
  /-- A request that leaves a register empty that its operation reads, raised when it is fetched (30_encoding.md R80;
  log entry 7). Safe. -/
  | missingOperand
  deriving DecidableEq, Repr

/-- The machine right after reset (10_state.md R40): the request and response registers hold no value. The other
fields are log entries 1 and 22. -/
def State.reset : State :=
  { req := none, rsp := {}, mem := [], running := [], writing := [], program := [], draws := 0 }

end Sys2Proof.Machine
end

