-- ==== Sys2Proof/Machine/Flags.lean ====
section
/-! DEFINITION. What a transaction leaves in the response registers (10_state.md R23, R28): the status codes and the
four shapes a response has. -/

namespace Sys2Proof.Machine

/-- The 3-bit code of `RSP_STATUS` (60_exceptions.md R230; log entries 8 and 17). -/
def statusCode : Status → BitVec 3
  | .ok => 0
  | .checksumMismatch => 1
  | .invalidMessageType => 2
  | .invalidSensorType => 3
  | .invalidActuatorType => 4
  | .bufferTooShort => 5
  | .invalidErrorCode => 6

/-- `OK` with a byte count: the WRITE operations and ENCODE. -/
def okCount (n : Nat) : Response := { status := some .ok, count := some n }

/-- `OK` with a value: the READ operations and CRC8, zero-extended by the caller of this. -/
def okValue (v : BitVec 64) : Response := { status := some .ok, value := some v }

/-- `OK` with a Message and the bytes consumed: DECODE (42_message_codec.md R198). -/
def okMessage (m : Message) (n : Nat) : Response := { status := some .ok, count := some n, msg := some m }

/-- `raise Status(st)`: the status alone (60_exceptions.md R231, 42_message_codec.md R186). -/
def raised (st : Status) : Response := { status := some st }

end Sys2Proof.Machine
end

