-- ==== Sys2Proof/Machine/Ops.lean ====
section
/-! DEFINITION. The named operations over memory, views and registers. Every meaning reads and writes the buffer
through them (00_scope.md R12: "the only ways an operation reads or writes the buffer"). The core has no trap entry and
no trap return (60_exceptions.md R242, R243): an error is `raised`, a response like any other. -/

namespace Sys2Proof.Machine

/-! ### Storage -/

/-- The byte at an address; an unlisted one reads as 0 (log entry 1). -/
def Memory.read : Memory → Nat → Byte
  | [], _ => 0
  | (a, b) :: m, x => if x = a then b else Memory.read m x

/-- The entries of every address but `x`. -/
def Memory.without (m : Memory) (x : Nat) : Memory := m.filter fun c => c.1 != x

/-- Put an entry before the first entry of a higher address. -/
def Memory.insert (x : Nat) (v : Byte) : Memory → Memory
  | [] => [(x, v)]
  | (a, b) :: m => if x < a then (x, v) :: (a, b) :: m else (a, b) :: Memory.insert x v m

/-- Write a byte, keeping the canonical form: what an unlisted address reads as is not listed. -/
def Memory.write (m : Memory) (x : Nat) (v : Byte) : Memory :=
  if v = 0 then Memory.without m x else Memory.insert x v (Memory.without m x)

/-- Write bytes at rising addresses from `x` on, in that order (20_memory.md R61). -/
def Memory.writeBytes (m : Memory) (x : Nat) : List Byte → Memory
  | [] => m
  | b :: bs => Memory.writeBytes (Memory.write m x b) (x + 1) bs

/-- The canonical form: addresses strictly rising, no byte 0 listed. -/
abbrev Memory.wf (m : Memory) : Prop := m.Pairwise (fun c d => c.1 < d.1) ∧ ∀ c ∈ m, c.2 ≠ 0

/-! ### Views (20_memory.md R50) -/

/-- `B[o]` of a view. -/
def State.byteAt (s : State) (view : View) (o : Nat) : Byte := Memory.read s.mem (view.base + o)

/-- `B[off .. off+n)` of a view. -/
def State.bytesAt (s : State) (view : View) (off n : Nat) : List Byte :=
  (List.range n).map fun i => s.byteAt view (off + i)

/-- Write bytes at offsets `off`, `off+1`, ... of a view. -/
def State.storeBytes (s : State) (view : View) (off : Nat) (bs : List Byte) : State :=
  { s with mem := Memory.writeBytes s.mem (view.base + off) bs }

/-- Whether two views share a byte. An empty view shares none. -/
def viewsMeet (v w : View) : Bool :=
  decide (0 < v.len ∧ 0 < w.len ∧ v.base < w.base + w.len ∧ w.base < v.base + v.len)

/-- Whether another running transaction uses, or another agent writes, a byte of this view (20_memory.md R66). -/
def State.viewShared (s : State) (view : View) : Bool := (s.running ++ s.writing).any (viewsMeet view)

/-- Whether the other agents keep both duties of 20_memory.md R66 among themselves: no two running transactions share a
byte, and no agent writes a byte of a running transaction's view. -/
def dutiesKept (running writing : List View) : Bool :=
  decide (running.Pairwise fun v w => viewsMeet v w = false) && running.all fun v => writing.all fun w => !viewsMeet v w

/-! ### Request and response registers -/

/-- Write a transaction's response: every register it does not write holds no value (10_state.md R23). -/
def State.reply (s : State) (r : Response) : State := { s with rsp := r }

/-- The caller's request fills the request registers, and its view is bound, for this transaction (10_state.md R22). -/
def State.issue (s : State) (r : Request) : State := { s with req := some r }

/-- The transaction returns: the view it was bound to and the Message it was given are kept no longer (10_state.md R22,
R39; 20_memory.md R71). That the other request registers hold no value from here on is log entry 14. -/
def State.release (s : State) : State := { s with req := none }

/-- Why a request is refused when it is fetched (60_exceptions.md R238). -/
def refusalOf : RequestReject → Refusal
  | .reservedOp => .reservedOp
  | .missingOperand => .missingOperand

/-- Take in a request: a reserved selector is refused first, then a shared view (60_exceptions.md R239 items 1 and 2);
the rest of the priority order is in the meanings. -/
def State.accept (s : State) (r : Request) : Except Refusal Instr :=
  match decodeRequest r with
  | .error e => .error (refusalOf e)
  | .ok i => if s.viewShared r.view then .error .sharedBuffer else .ok i

/-- Read a response register: a fault where it holds no value (10_state.md R23). -/
def State.readResponse (s : State) : RspReg → Except Fault RspVal
  | .status =>
    match s.rsp.status with
    | some v => .ok (.status v)
    | none => .error .unwritten
  | .value =>
    match s.rsp.value with
    | some v => .ok (.value v)
    | none => .error .unwritten
  | .count =>
    match s.rsp.count with
    | some v => .ok (.count v)
    | none => .error .unwritten
  | .msg =>
    match s.rsp.msg with
    | some v => .ok (.msg v)
    | none => .error .unwritten

/-- Reset of the core: the request and response registers hold no value (10_state.md R40). What the caller owns is not
the core's to clear (log entry 18). -/
def State.resetRegisters (s : State) : State := { s with req := none, rsp := {} }

/-- A read of a response register as the caller's action (10_state.md R23). It changes nothing (log entry 16). -/
def State.afterRead (s : State) (reg : RspReg) : Host.Outcome State Fault Refusal :=
  match s.readResponse reg with
  | .error f => .fault f
  | .ok _ => .next s

/-- A byte of the caller's storage is written. -/
def State.callerStore (s : State) (x : Nat) (b : Byte) : State := { s with mem := Memory.write s.mem x b }

/-- A store as an event. Written into a view while a transaction on it runs, it is refused (70_reset_and_hazards.md R266,
20_memory.md R66: "no agent may write a view while a transaction on it runs"). In a range that other agents write and no
transaction uses, it writes its byte (log entry 24). -/
def State.afterStore (s : State) (x : Nat) (b : Byte) : Host.Outcome State Fault Refusal :=
  if s.running.any (viewsMeet ⟨x, 1⟩) then .refused .sharedBuffer else .next (s.callerStore x b)

/-- From here on other agents use these ranges (20_memory.md R66; log entry 11). -/
def State.setOthers (s : State) (running writing : List View) : State := { s with running, writing }

/-- A change of the ranges in use as an event. One that breaks a duty is a schedule the model does not admit, and is
refused (20_memory.md R66: "The model admits no schedule that breaks either duty"). -/
def State.afterOthers (s : State) (running writing : List View) : Host.Outcome State Fault Refusal :=
  if dutiesKept running writing then .next (s.setOthers running writing) else .refused .sharedBuffer

end Sys2Proof.Machine
end

