-- ==== Sys2Proof/Machine/Operands.lean ====
section
/-! DEFINITION. The operand forms: the one bounds check of the Integer Codec and CRC8, and the memory operands of 2, 4
and 8 bytes of a view (00_scope.md R12, 20_memory.md R53 to R56). -/

namespace Sys2Proof.Machine

/-- `off + n <= LEN` (20_memory.md R56). -/
def inRange (view : View) (off n : Nat) : Bool := decide (off + n ≤ view.len)

/-- Run `k` if `n` bytes at `off` are in the view, else fault before any byte is touched (20_memory.md R56). -/
def guarded (view : View) (off n : Nat) (k : State) : Host.Outcome State Fault Refusal :=
  if inRange view off n then .next k else .fault .range

/-- `MemRead(off, 2)` of a view. -/
def State.load16 (s : State) (view : View) (off : Nat) : BitVec 16 := memRead16 (s.byteAt view) off

/-- `MemRead(off, 4)` of a view. -/
def State.load32 (s : State) (view : View) (off : Nat) : BitVec 32 := memRead32 (s.byteAt view) off

/-- `MemRead(off, 8)` of a view. -/
def State.load64 (s : State) (view : View) (off : Nat) : BitVec 64 := memRead64 (s.byteAt view) off

/-- `MemWrite(off, 2, v)` of a view. -/
def State.store16 (s : State) (view : View) (off : Nat) (v : BitVec 16) : State := s.storeBytes view off (bytes16 v)

/-- `MemWrite(off, 4, v)` of a view. -/
def State.store32 (s : State) (view : View) (off : Nat) (v : BitVec 32) : State := s.storeBytes view off (bytes32 v)

/-- `MemWrite(off, 8, v)` of a view. -/
def State.store64 (s : State) (view : View) (off : Nat) (v : BitVec 64) : State := s.storeBytes view off (bytes64 v)

end Sys2Proof.Machine
end

