-- ==== Sys2Proof/Machine/Crc8.lean ====
section
/-! DEFINITION. The CRC-8 Engine (41_crc8.md R150, R151), over a table argument, so that what holds for every table can
be said and the spec's vectors under substitute tables can be checked; the machine uses `Config.crc8Table`. -/

namespace Sys2Proof.Machine

/-- `CRC8_INIT` (10_state.md R25). -/
def crc8Init : Byte := 0xDE

/-- `crc8_step` (41_crc8.md R150): the update form is the spec's decision D4 (log entry 9). -/
def crc8Step (table : Byte → Byte) (acc b : Byte) : Byte := table (acc ^^^ b)

/-- `crc8_from` (41_crc8.md R150). -/
def crc8From (table : Byte → Byte) (acc : Byte) : List Byte → Byte
  | [] => acc
  | b :: rest => crc8From table (crc8Step table acc b) rest

/-- `crc8` (41_crc8.md R150): no final XOR. -/
def crc8Of (table : Byte → Byte) (bytes : List Byte) : Byte := crc8From table crc8Init bytes

/-- CRC8 (41_crc8.md R151): the checksum of `n` bytes of the view, zero-extended. -/
def execCrc8 (off n : Nat) (view : View) (s : State) : Host.Outcome State Fault Refusal :=
  guarded view off n (s.reply (okValue ((crc8Of Config.crc8Table (s.bytesAt view off n)).setWidth 64)))

end Sys2Proof.Machine
end

