-- ==== Sys2Proof/Machine/Codec.lean ====
section
/-! DEFINITION. The Message Codec: ENCODE (42_message_codec.md R170 to R180) and DECODE (R185 to R200). -/

namespace Sys2Proof.Machine

/-- All the bytes of the frame of a Message: header and payload, then the trailer over them (42_message_codec.md R173
to R178). -/
def frameBytes (table : Byte → Byte) (m : Message) : List Byte :=
  m.toWire.body ++ [crc8Of table m.toWire.body]

/-- ENCODE (42_message_codec.md R170), the ill-formed Message before the capacity (60_exceptions.md R239). -/
def execEncode (msg : Message) (view : View) (s : State) : Host.Outcome State Fault Refusal :=
  if msg.wf then
    if view.len < 22 then .fault .capacity
    else .next ((s.storeBytes view 0 (frameBytes Config.crc8Table msg)).reply
      (okCount (5 + payloadLen msg.type msg.subtype)))
  else .refused .illFormedMessage

/-- Steps 5 to 7 of DECODE on a frame read from the view: the trailer against the CRC of the header and payload bytes,
then the error code, then the Message (42_message_codec.md R195 to R198; log entry 21). -/
def frameResponse (table : Byte → Byte) (f : WireFrame) : Response :=
  if crc8Of table f.message.body = f.trailer then
    match f.message.ofWire with
    | some m => okMessage m (5 + payloadLen f.message.type f.message.subtype)
    | none => raised .invalidErrorCode
  else raised .checksumMismatch

/-- DECODE over `len` bytes `rd` (42_message_codec.md R185). -/
def decodeResponse (table : Byte → Byte) (len : Nat) (rd : Nat → Byte) : Response :=
  match decodeFrame len rd with
  | .error e => raised e
  | .ok f => frameResponse table f

/-- DECODE (42_message_codec.md R185): defined for every view; it writes no byte of it (R200). -/
def execDecode (view : View) (s : State) : Host.Outcome State Fault Refusal :=
  .next (s.reply (decodeResponse Config.crc8Table view.len (s.byteAt view)))

/-- Deliver a frame to the caller: what a frame kind does as an instruction (log entry 5). -/
def State.deliver (s : State) (m : MessageOf Byte) (crc : Byte) : State :=
  s.reply (frameResponse Config.crc8Table ⟨m, crc⟩)

end Sys2Proof.Machine
end

