-- ==== Sys2Proof/Machine/Frames.lean ====
section
/-! DEFINITION. The twenty-one frame kinds (30_encoding.md R95, R96) as instructions: each delivers the frame its
fields and trailer make up, by steps 5 to 7 of DECODE (42_message_codec.md R195 to R198; log entry 5). -/

namespace Sys2Proof.Machine

/-- K1 ERROR. The code byte is checked after the trailer (42_message_codec.md R197) (30_encoding.md R95). -/
def execK1Error (subtype : SensorType) (id sequence code crc : Byte) (s : State) :
    Host.Outcome State Fault Refusal :=
  .next (s.deliver ⟨.error, .sensor subtype, id, sequence, .error code⟩ crc)

/-- K2 SENSOR_ENABLE, header only (30_encoding.md R95). -/
def execK2SensorEnable (subtype : SensorType) (id sequence crc : Byte) (s : State) :
    Host.Outcome State Fault Refusal :=
  .next (s.deliver ⟨.sensorEnable, .sensor subtype, id, sequence, .empty⟩ crc)

/-- K3 SENSOR_DISABLE, header only (30_encoding.md R95). -/
def execK3SensorDisable (subtype : SensorType) (id sequence crc : Byte) (s : State) :
    Host.Outcome State Fault Refusal :=
  .next (s.deliver ⟨.sensorDisable, .sensor subtype, id, sequence, .empty⟩ crc)

/-- K4 SENSOR_GET, header only (30_encoding.md R95). -/
def execK4SensorGet (subtype : SensorType) (id sequence crc : Byte) (s : State) :
    Host.Outcome State Fault Refusal :=
  .next (s.deliver ⟨.sensorGet, .sensor subtype, id, sequence, .empty⟩ crc)

/-- K5 TIME: 8 bytes of microseconds; byte1 is carried (90_conflicts.md C4) (30_encoding.md R95). -/
def execK5Time (subtype : SensorType) (id sequence : Byte) (micros : BitVec 64) (crc : Byte) (s : State) :
    Host.Outcome State Fault Refusal :=
  .next (s.deliver ⟨.time, .sensor subtype, id, sequence, .time micros⟩ crc)

/-- K6 ACTUATOR_ACK, header only; byte1 is a sensor tag (92_eei_decisions.md D24) (30_encoding.md R95). -/
def execK6ActuatorAck (subtype : SensorType) (id sequence crc : Byte) (s : State) :
    Host.Outcome State Fault Refusal :=
  .next (s.deliver ⟨.actuatorAck, .sensor subtype, id, sequence, .empty⟩ crc)

/-- K7 ACTUATOR/SERVO: a signed angle (30_encoding.md R95). -/
def execK7ActuatorServo (id sequence : Byte) (angle : Int16) (crc : Byte) (s : State) :
    Host.Outcome State Fault Refusal :=
  .next (s.deliver ⟨.actuator, .actuator .servo, id, sequence, .servo angle⟩ crc)

/-- K8 ACTUATOR/MOTOR: a signed speed (30_encoding.md R95). -/
def execK8ActuatorMotor (id sequence : Byte) (speed : Int16) (crc : Byte) (s : State) :
    Host.Outcome State Fault Refusal :=
  .next (s.deliver ⟨.actuator, .actuator .motor, id, sequence, .motor speed⟩ crc)

/-- K9 ACTUATOR/LED: one byte (30_encoding.md R95). -/
def execK9ActuatorLed (id sequence value crc : Byte) (s : State) :
    Host.Outcome State Fault Refusal :=
  .next (s.deliver ⟨.actuator, .actuator .led, id, sequence, .led value⟩ crc)

/-- K10 SENSOR_DATA/UNKNOWN: no payload (30_encoding.md R95). -/
def execK10SensorDataUnknown (id sequence crc : Byte) (s : State) :
    Host.Outcome State Fault Refusal :=
  .next (s.deliver ⟨.sensorData, .sensor .unknown, id, sequence, .empty⟩ crc)

/-- K11 SENSOR_DATA/PROXIMITY: a signed distance (30_encoding.md R95). -/
def execK11SensorDataProximity (id sequence : Byte) (distance : Int16) (crc : Byte) (s : State) :
    Host.Outcome State Fault Refusal :=
  .next (s.deliver ⟨.sensorData, .sensor .proximity, id, sequence, .proximity distance⟩ crc)

/-- K12 SENSOR_DATA/GYROSCOPE: three signed fields (30_encoding.md R95). -/
def execK12SensorDataGyroscope (id sequence : Byte) (x y z : Int32) (crc : Byte) (s : State) :
    Host.Outcome State Fault Refusal :=
  .next (s.deliver ⟨.sensorData, .sensor .gyroscope, id, sequence, .gyroscope x y z⟩ crc)

/-- K13 SENSOR_DATA/ACCELEROMETER: three signed fields (30_encoding.md R95). -/
def execK13SensorDataAccelerometer (id sequence : Byte) (x y z : Int32) (crc : Byte) (s : State) :
    Host.Outcome State Fault Refusal :=
  .next (s.deliver ⟨.sensorData, .sensor .accelerometer, id, sequence, .accelerometer x y z⟩ crc)

/-- K14 SENSOR_DATA/MAGNETOMETER: three signed fields (30_encoding.md R95). -/
def execK14SensorDataMagnetometer (id sequence : Byte) (x y z : Int32) (crc : Byte) (s : State) :
    Host.Outcome State Fault Refusal :=
  .next (s.deliver ⟨.sensorData, .sensor .magnetometer, id, sequence, .magnetometer x y z⟩ crc)

/-- K15 SENSOR_DATA/ORIENTATION: three signed fields (30_encoding.md R95). -/
def execK15SensorDataOrientation (id sequence : Byte) (x y z : Int32) (crc : Byte) (s : State) :
    Host.Outcome State Fault Refusal :=
  .next (s.deliver ⟨.sensorData, .sensor .orientation, id, sequence, .orientation x y z⟩ crc)

/-- K16 SENSOR_DATA/SERVO: a signed angle (30_encoding.md R95). -/
def execK16SensorDataServo (id sequence : Byte) (angle : Int16) (crc : Byte) (s : State) :
    Host.Outcome State Fault Refusal :=
  .next (s.deliver ⟨.sensorData, .sensor .servo, id, sequence, .servo angle⟩ crc)

/-- K17 SENSOR_DATA/MOTOR: a signed speed (30_encoding.md R95). -/
def execK17SensorDataMotor (id sequence : Byte) (speed : Int16) (crc : Byte) (s : State) :
    Host.Outcome State Fault Refusal :=
  .next (s.deliver ⟨.sensorData, .sensor .motor, id, sequence, .motor speed⟩ crc)

/-- K18 SENSOR_DATA/LED: one byte (30_encoding.md R95). -/
def execK18SensorDataLed (id sequence value crc : Byte) (s : State) :
    Host.Outcome State Fault Refusal :=
  .next (s.deliver ⟨.sensorData, .sensor .led, id, sequence, .led value⟩ crc)

/-- K19 SENSOR_DATA/MOUSE: two signed fields, a duration, a quality byte (30_encoding.md R95). -/
def execK19SensorDataMouse (id sequence : Byte) (x y : Int32) (duration : BitVec 32) (quality crc : Byte) (s : State) :
    Host.Outcome State Fault Refusal :=
  .next (s.deliver ⟨.sensorData, .sensor .mouse, id, sequence, .mouse x y duration quality⟩ crc)

/-- K20 SENSOR_DATA/SBUS: eight channels and a flags byte (30_encoding.md R95). -/
def execK20SensorDataSbus (id sequence : Byte) (channels : Channels) (flags crc : Byte) (s : State) :
    Host.Outcome State Fault Refusal :=
  .next (s.deliver ⟨.sensorData, .sensor .sbus, id, sequence, .sbus channels flags⟩ crc)

/-- K21 SENSOR_DATA/SENSOR_TYPE_END: the sentinel, no payload (90_conflicts.md C3) (30_encoding.md R95). -/
def execK21SensorDataSensorTypeEnd (id sequence crc : Byte) (s : State) :
    Host.Outcome State Fault Refusal :=
  .next (s.deliver ⟨.sensorData, .sensor .sensorTypeEnd, id, sequence, .empty⟩ crc)

end Sys2Proof.Machine
end

