-- ==== Sys2Proof/Machine/Integer.lean ====
section
/-! DEFINITION. The Integer Codec operations (40_integer_codec.md R130 to R135). -/

namespace Sys2Proof.Machine

/-- WRITE16 (40_integer_codec.md R130). -/
def execWrite16 (v : BitVec 16) (off : Nat) (view : View) (s : State) : Host.Outcome State Fault Refusal :=
  guarded view off 2 ((s.store16 view off v).reply (okCount 2))

/-- WRITE32 (40_integer_codec.md R131). -/
def execWrite32 (v : BitVec 32) (off : Nat) (view : View) (s : State) : Host.Outcome State Fault Refusal :=
  guarded view off 4 ((s.store32 view off v).reply (okCount 4))

/-- WRITE64 (40_integer_codec.md R132). -/
def execWrite64 (v : BitVec 64) (off : Nat) (view : View) (s : State) : Host.Outcome State Fault Refusal :=
  guarded view off 8 ((s.store64 view off v).reply (okCount 8))

/-- READ16, zero-extended (40_integer_codec.md R133). -/
def execRead16 (off : Nat) (view : View) (s : State) : Host.Outcome State Fault Refusal :=
  guarded view off 2 (s.reply (okValue ((s.load16 view off).setWidth 64)))

/-- READ32, zero-extended (40_integer_codec.md R134). -/
def execRead32 (off : Nat) (view : View) (s : State) : Host.Outcome State Fault Refusal :=
  guarded view off 4 (s.reply (okValue ((s.load32 view off).setWidth 64)))

/-- READ64 (40_integer_codec.md R135). -/
def execRead64 (off : Nat) (view : View) (s : State) : Host.Outcome State Fault Refusal :=
  guarded view off 8 (s.reply (okValue (s.load64 view off)))

end Sys2Proof.Machine
end

