-- ==== Sys2Proof/Machine/Dispatch.lean ====
section
/-! DEFINITION. What each instruction does: one arm per row of the opcode table. -/

namespace Sys2Proof.Machine

def exec (i : Instr) (s : State) : Host.Outcome State Fault Refusal :=
  match i with
  | .write16 v off view => Sys2Proof.Machine.execWrite16 v off view s
  | .write32 v off view => Sys2Proof.Machine.execWrite32 v off view s
  | .write64 v off view => Sys2Proof.Machine.execWrite64 v off view s
  | .read16 off view => Sys2Proof.Machine.execRead16 off view s
  | .read32 off view => Sys2Proof.Machine.execRead32 off view s
  | .read64 off view => Sys2Proof.Machine.execRead64 off view s
  | .crc8 off n view => Sys2Proof.Machine.execCrc8 off n view s
  | .encode msg view => Sys2Proof.Machine.execEncode msg view s
  | .decode view => Sys2Proof.Machine.execDecode view s
  | .k1Error subtype id sequence code crc => Sys2Proof.Machine.execK1Error subtype id sequence code crc s
  | .k2SensorEnable subtype id sequence crc => Sys2Proof.Machine.execK2SensorEnable subtype id sequence crc s
  | .k3SensorDisable subtype id sequence crc => Sys2Proof.Machine.execK3SensorDisable subtype id sequence crc s
  | .k4SensorGet subtype id sequence crc => Sys2Proof.Machine.execK4SensorGet subtype id sequence crc s
  | .k5Time subtype id sequence micros crc => Sys2Proof.Machine.execK5Time subtype id sequence micros crc s
  | .k6ActuatorAck subtype id sequence crc => Sys2Proof.Machine.execK6ActuatorAck subtype id sequence crc s
  | .k7ActuatorServo id sequence angle crc => Sys2Proof.Machine.execK7ActuatorServo id sequence angle crc s
  | .k8ActuatorMotor id sequence speed crc => Sys2Proof.Machine.execK8ActuatorMotor id sequence speed crc s
  | .k9ActuatorLed id sequence value crc => Sys2Proof.Machine.execK9ActuatorLed id sequence value crc s
  | .k10SensorDataUnknown id sequence crc => Sys2Proof.Machine.execK10SensorDataUnknown id sequence crc s
  | .k11SensorDataProximity id sequence distance crc => Sys2Proof.Machine.execK11SensorDataProximity id sequence distance crc s
  | .k12SensorDataGyroscope id sequence x y z crc => Sys2Proof.Machine.execK12SensorDataGyroscope id sequence x y z crc s
  | .k13SensorDataAccelerometer id sequence x y z crc => Sys2Proof.Machine.execK13SensorDataAccelerometer id sequence x y z crc s
  | .k14SensorDataMagnetometer id sequence x y z crc => Sys2Proof.Machine.execK14SensorDataMagnetometer id sequence x y z crc s
  | .k15SensorDataOrientation id sequence x y z crc => Sys2Proof.Machine.execK15SensorDataOrientation id sequence x y z crc s
  | .k16SensorDataServo id sequence angle crc => Sys2Proof.Machine.execK16SensorDataServo id sequence angle crc s
  | .k17SensorDataMotor id sequence speed crc => Sys2Proof.Machine.execK17SensorDataMotor id sequence speed crc s
  | .k18SensorDataLed id sequence value crc => Sys2Proof.Machine.execK18SensorDataLed id sequence value crc s
  | .k19SensorDataMouse id sequence x y duration quality crc => Sys2Proof.Machine.execK19SensorDataMouse id sequence x y duration quality crc s
  | .k20SensorDataSbus id sequence channels flags crc => Sys2Proof.Machine.execK20SensorDataSbus id sequence channels flags crc s
  | .k21SensorDataSensorTypeEnd id sequence crc => Sys2Proof.Machine.execK21SensorDataSensorTypeEnd id sequence crc s

end Sys2Proof.Machine
end

