-- ==== Sys2Proof/Machine/Reset.lean ====
section
/-! DEFINITION. Reset during a transaction (70_reset_and_hazards.md R260, 93_implementation_defined.md U8). -/

namespace Sys2Proof.Machine

/-- The bytes an instruction writes, in its order of writing, and the address of the first (20_memory.md R59, R61):
the WRITE operations and ENCODE write, and nothing else does. -/
def plannedWrites : Instr → Nat × List Byte
  | .write16 v off view => (view.base + off, bytes16 v)
  | .write32 v off view => (view.base + off, bytes32 v)
  | .write64 v off view => (view.base + off, bytes64 v)
  | .encode msg view => (view.base, frameBytes Config.crc8Table msg)
  | .read16 _ _ | .read32 _ _ | .read64 _ _ | .crc8 _ _ _ | .decode _
  | .k1Error _ _ _ _ _ | .k2SensorEnable _ _ _ _ | .k3SensorDisable _ _ _ _ | .k4SensorGet _ _ _ _
  | .k5Time _ _ _ _ _ | .k6ActuatorAck _ _ _ _
  | .k7ActuatorServo _ _ _ _ | .k8ActuatorMotor _ _ _ _ | .k9ActuatorLed _ _ _ _
  | .k10SensorDataUnknown _ _ _ | .k11SensorDataProximity _ _ _ _ | .k12SensorDataGyroscope _ _ _ _ _ _
  | .k13SensorDataAccelerometer _ _ _ _ _ _ | .k14SensorDataMagnetometer _ _ _ _ _ _
  | .k15SensorDataOrientation _ _ _ _ _ _ | .k16SensorDataServo _ _ _ _ | .k17SensorDataMotor _ _ _ _
  | .k18SensorDataLed _ _ _ _ | .k19SensorDataMouse _ _ _ _ _ _ _ | .k20SensorDataSbus _ _ _ _ _
  | .k21SensorDataSensorTypeEnd _ _ _ => (0, [])

/-- The state after reset cut the transaction of `i` off: some prefix of its writes is in the view, how long a prefix
is a free value, and no response is produced (70_reset_and_hazards.md R260; log entry 3). -/
def cutShort (i : Instr) (s : State) : State :=
  { s.resetRegisters with
    mem := Memory.writeBytes s.mem (plannedWrites i).1 ((plannedWrites i).2.take (Config.resetPrefix s.draws))
    draws := s.draws + 1 }

/-- What is left of a transaction whose outcome without reset would have been `o`. A request outside the caller's duties
stops as it does without reset: its check comes before its first byte (60_exceptions.md R235). -/
def cutOutcome (i : Instr) (s : State) (o : Host.Outcome State Fault Refusal) : Host.Outcome State Fault Refusal :=
  match o with
  | .next _ => .next (cutShort i s)
  | .fault f => .fault f
  | .refused q => .refused q

end Sys2Proof.Machine
end

