-- ==== Sys2Proof/Machine/Run.lean ====
section
/-! DEFINITION. What one event of the world around the core does, a whole transaction where it is a request
(00_scope.md R7, 20_memory.md R61), and how a table word comes to be what runs next. -/

namespace Sys2Proof.Machine

/-- A transaction that completed returns, and keeps nothing of its request (10_state.md R39, 20_memory.md R71). -/
def returned : Host.Outcome State Fault Refusal → Host.Outcome State Fault Refusal
  | .next s => .next s.release
  | .fault f => .fault f
  | .refused q => .refused q

/-- A transaction: the request fills the request registers, is taken in, runs, and returns. -/
def runRequest (s : State) (r : Request) : Host.Outcome State Fault Refusal :=
  match (s.issue r).accept r with
  | .error q => .refused q
  | .ok i => returned (exec i (s.issue r))

/-- A transaction that reset cuts off. -/
def runCut (s : State) (r : Request) : Host.Outcome State Fault Refusal :=
  match (s.issue r).accept r with
  | .error q => .refused q
  | .ok i => cutOutcome i (s.issue r) (exec i (s.issue r))

/-- One event, taken off the program already (log entry 4). -/
def runEvent (s : State) : Event → Host.Outcome State Fault Refusal
  | .request r => runRequest s r
  | .read reg => s.afterRead reg
  | .store x b => s.afterStore x b
  | .others running writing => s.afterOthers running writing
  | .reset => .next s.resetRegisters
  | .cutByReset r => runCut s r

/-- The state in which an opcode-table word is what comes next (log entry 6): a request word is the next request, with
zero operands; a frame word lies at the start of a view whose DECODE is the next request. No one else uses the view. -/
def State.placeWord (s : State) (nbits w : Nat) : State :=
  if nbits ≤ 8 then
    { s with program := .request (zeroRequest (tableSelector w)) :: s.program, running := [], writing := [] }
  else
    { s with
      program := .request (zeroRequest 0x9) :: s.program
      running := []
      writing := []
      mem := Memory.writeBytes s.mem 0 (tableBytes nbits w) }

end Sys2Proof.Machine
end

