-- ==== Sys2Proof/Machine/Step.lean ====
section
/-! DEFINITION. One step: the next event of the world around the core (00_scope.md R7). -/

namespace Sys2Proof.Machine

/-- One step. With nothing left to happen, the core waits for a request and nothing changes (log entry 4). -/
def step (s : State) : Host.Outcome State Fault Refusal :=
  match s.program with
  | [] => .next s
  | e :: rest => runEvent { s with program := rest } e

/-- The state in which an opcode-table word is what step runs next (log entry 6). -/
def State.withFetchWord (s : State) (nbits w : Nat) : State := s.placeWord nbits w

end Sys2Proof.Machine
end

