-- ==== Sys2Proof/WellFormed.lean ====
section
/-! DEFINITION. The caller's duties before a request (70_reset_and_hazards.md R263 items 2 to 4), as a check on an
instruction's operands. The one duty that is not about operands, exclusive use of the view (item 1), is a check on the
state: `State.viewShared`. -/

namespace Sys2Proof

/-- Whether an instruction's operands meet the caller's duties: in range (20_memory.md R56), the capacity of
20_memory.md R58 and a well-formed Message (10_state.md R37). DECODE has no duty, and a frame kind's operands can break
none: their types hold exactly the values the fields may have. -/
def Instr.wf : Instr → Bool
  | .write16 _ off view => decide (off + 2 ≤ view.len)
  | .write32 _ off view => decide (off + 4 ≤ view.len)
  | .write64 _ off view => decide (off + 8 ≤ view.len)
  | .read16 off view => decide (off + 2 ≤ view.len)
  | .read32 off view => decide (off + 4 ≤ view.len)
  | .read64 off view => decide (off + 8 ≤ view.len)
  | .crc8 off n view => decide (off + n ≤ view.len)
  | .encode msg view => msg.wf && decide (22 ≤ view.len)
  | .decode _
  | .k1Error _ _ _ _ _ | .k2SensorEnable _ _ _ _ | .k3SensorDisable _ _ _ _ | .k4SensorGet _ _ _ _
  | .k5Time _ _ _ _ _ | .k6ActuatorAck _ _ _ _
  | .k7ActuatorServo _ _ _ _ | .k8ActuatorMotor _ _ _ _ | .k9ActuatorLed _ _ _ _
  | .k10SensorDataUnknown _ _ _ | .k11SensorDataProximity _ _ _ _ | .k12SensorDataGyroscope _ _ _ _ _ _
  | .k13SensorDataAccelerometer _ _ _ _ _ _ | .k14SensorDataMagnetometer _ _ _ _ _ _
  | .k15SensorDataOrientation _ _ _ _ _ _ | .k16SensorDataServo _ _ _ _ | .k17SensorDataMotor _ _ _ _
  | .k18SensorDataLed _ _ _ _ | .k19SensorDataMouse _ _ _ _ _ _ _ | .k20SensorDataSbus _ _ _ _ _
  | .k21SensorDataSensorTypeEnd _ _ _ => true

/-- A view an implementation with `w`-bit offsets can hold: `LEN < 2^ADDR_W` (20_memory.md R51), for the OPEN parameter
`ADDR_W = w` (log entry 10). -/
def View.fits (w : Nat) (v : View) : Prop := v.len < 2 ^ w

end Sys2Proof
end

