-- ==== Sys2Proof/Safety.lean ====
section
/-! DEFINITION. The terms claims use: what holds of a state in every run (`State.Inv`), when two states look the same to
a transaction (`sameView`), what a transaction leaves alone (`sameOutside`, `sameRest`), when views share a byte (`View.shares`) and no
duty about them is broken (`Duties`), and the premise of 41_crc8.md R156. -/

namespace Sys2Proof

/-- Two views share a byte of the caller's storage (20_memory.md R66). -/
def View.shares (v w : View) : Prop := ∃ a, v.base ≤ a ∧ a < v.base + v.len ∧ w.base ≤ a ∧ a < w.base + w.len

end Sys2Proof

namespace Sys2Proof.Machine

/-- What the response registers can hold together (10_state.md R23, R28; 42_message_codec.md R186, R198): an error
status alone; with `OK`, a well-formed Message only beside a byte count; nothing beside no status. -/
structure Response.Sound (r : Response) : Prop where
  onlyOk : r.status ≠ some .ok → r.value = none ∧ r.count = none ∧ r.msg = none
  messageWf : ∀ m, r.msg = some m → m.wf = true ∧ r.count = some (frameLen m.type m.subtype)
  notBoth : r.value = none ∨ r.count = none

/-- The two duties of 20_memory.md R66, among the views of running transactions and the ranges other agents write. -/
def Duties (running writing : List View) : Prop :=
  running.Pairwise (fun v w => ¬v.shares w) ∧ ∀ v ∈ running, ∀ w ∈ writing, ¬v.shares w

/-- The invariant every step keeps: nothing of a request is kept once its transaction has returned (10_state.md R39,
20_memory.md R71), memory in canonical form, response registers as a transaction leaves them, and both duties of 20_memory.md
R66 kept among the other agents. -/
structure State.Inv (s : State) : Prop where
  reqReleased : s.req = none
  memWf : Memory.wf s.mem
  rspSound : s.rsp.Sound
  duties : Duties s.running s.writing

/-- Two states with the same bytes in a view. -/
def sameView (view : View) (s t : State) : Prop := ∀ o < view.len, s.byteAt view o = t.byteAt view o

/-- Every byte of the caller's storage outside the `n` bytes from address `x` on is the same in both states. -/
def sameOutside (s t : State) (x n : Nat) : Prop :=
  ∀ a, a < x ∨ x + n ≤ a → Memory.read t.mem a = Memory.read s.mem a

/-- Everything but storage and the response registers is the same in both states. -/
def sameRest (s t : State) : Prop :=
  t.req = s.req ∧ t.running = s.running ∧ t.writing = s.writing ∧ t.program = s.program ∧ t.draws = s.draws

/-- `TABLE_BIJECTIVE` (41_crc8.md R156), of a table. A premise, never a fact. -/
def TableBijective (table : Byte → Byte) : Prop := Function.Bijective table

end Sys2Proof.Machine
end

