-- ==== Sys2Proof/Certificates/Slice0/Obligations.lean ====
section
/-! DEFINITION. The statements about the codec core, from the numbered rules of spec/, for the provers. -/

open Sys2Proof Sys2Proof.Machine

/-! ### Encodings -/

/-- 30_encoding.md R81, R82, R90 to R98: decoding what the encoder writes gives the instruction back, for all 30 rows
and every value of their operands, so no operand bit is dropped. -/
def Obligations.DecodeOfEncodeIsIdentity : Prop := ∀ i : Instr, decode (encode i) = .ok i

/-- 30_encoding.md R104: the bytes of a frame are read whole. Whatever bytes decode to an instruction, they start with
exactly the bytes that instruction encodes to. -/
def Obligations.FrameBytesAreEncodeOfDecode : Prop :=
  ∀ (bs : List Byte) (i : Instr), decode (.frame bs) = .ok i → ∃ n ≤ bs.length, encode i = .frame (bs.take n)

/-- 30_encoding.md R83, 60_exceptions.md R238, R239 item 1: a request with a reserved selector is refused before
anything else is looked at, whatever its operands and the state. -/
def Obligations.ReservedSelectorsAreRefused : Prop :=
  ∀ (s : State) (r : Request) (rest : List Event), s.program = .request r :: rest →
    (r.op = 0x0 ∨ 0xA#4 ≤ r.op) → step s = .refused .reservedOp

/-- Words written out from the encoding tables (30_encoding.md R81, R95): selectors 1, 7 and 9; the K7, K12 and K5
headers; the two codes next to the selectors' range. -/
def Obligations.TableWordsDecodeAsTheSpecSays : Prop :=
  decodeTableWord 8 0x1 = some (.write16 0 0 ⟨0, 22⟩) ∧
  decodeTableWord 8 0x7 = some (.crc8 0 0 ⟨0, 22⟩) ∧
  decodeTableWord 8 0x9 = some (.decode ⟨0, 22⟩) ∧
  decodeTableWord 8 0x0 = none ∧ decodeTableWord 8 0xA = none ∧
  decodeTableWord 32 0x04030006 = some (.k7ActuatorServo 3 4 0 0) ∧
  decodeTableWord 32 0x08070203 = some (.k12SensorDataGyroscope 7 8 0 0 0 0) ∧
  decodeTableWord 32 0x07030B05 = some (.k5Time .sensorTypeEnd 3 7 0 0) ∧
  decodeTableWord 16 0x0C03 = none ∧ decodeTableWord 16 0x0008 = none

/-- 10_state.md R30 to R33, the spec's own decision D3 (log entry 8): which bytes name a tag, and the code of each. -/
def Obligations.TagCodes : Prop :=
  (∀ b : Byte, messageTypeOf b = none ↔ 0x07#8 < b) ∧
  (∀ b : Byte, sensorTypeOf b = none ↔ 0x0B#8 < b) ∧
  (∀ b : Byte, actuatorTypeOf b = none ↔ 0x02#8 < b) ∧
  (∀ b : Byte, errorCodeOf b = none ↔ 0x06#8 < b) ∧
  ([0x00, 0x01, 0x02, 0x03, 0x04, 0x05, 0x06, 0x07] : List Byte).map messageTypeOf =
    [some .error, some .sensorEnable, some .sensorDisable, some .sensorData, some .sensorGet, some .time,
     some .actuator, some .actuatorAck] ∧
  ([0x00, 0x01, 0x02, 0x03, 0x04, 0x05, 0x06, 0x07, 0x08, 0x09, 0x0A, 0x0B] : List Byte).map sensorTypeOf =
    [some .unknown, some .proximity, some .gyroscope, some .accelerometer, some .magnetometer, some .orientation,
     some .servo, some .motor, some .led, some .mouse, some .sbus, some .sensorTypeEnd] ∧
  ([0x00, 0x01, 0x02] : List Byte).map actuatorTypeOf = [some .servo, some .motor, some .led] ∧
  ([0x00, 0x01, 0x02, 0x03, 0x04, 0x05, 0x06] : List Byte).map errorCodeOf =
    [some .invalidMessageType, some .invalidSensorType, some .invalidSensorId, some .sensorEnableFailed,
     some .sensorDisableFailed, some .sensorDataFailed, some .sensorTimeout]

/-- 30_encoding.md R99: `payload_len` over the codes of byte0 and byte1, transcribed; used by the DECODE statements. -/
def Sys2Proof.payloadLenByCode (t s : Byte) : Nat :=
  if t = 0x00 then 1
  else if t = 0x05 then 8
  else if t = 0x06 then (if s = 0x02 then 1 else 2)
  else if t = 0x03 then
    if s = 0x00 then 0
    else if s = 0x01 then 2
    else if s ≤ 0x05 then 12
    else if s ≤ 0x07 then 2
    else if s = 0x08 then 1
    else if s = 0x09 then 13
    else if s = 0x0A then 17
    else 0
  else 0

/-- 30_encoding.md R99, R101, 42_message_codec.md R206: every pair in its space has the length the table gives; frames
are 5 to 22 bytes; an ERROR frame is 6 bytes, an SBUS frame 22. -/
def Obligations.FrameSizes : Prop :=
  (∀ (t : MessageType) (s : MsgSubtype), s.inSpace t = true →
    payloadLen t s = payloadLenByCode t.code s.code ∧ frameLen t s = 4 + payloadLen t s + 1 ∧
    5 ≤ frameLen t s ∧ frameLen t s ≤ 22) ∧
  (∀ s, frameLen .error s = 6) ∧ frameLen .sensorData (.sensor .sbus) = 22 ∧ frameLen .sensorEnable (.sensor .sbus) = 5

/-- 60_exceptions.md R230, the spec's own decision D17 (log entry 8): the 3-bit status codes, and that 7 is none of them. -/
def Obligations.StatusCodes : Prop :=
  statusCode .ok = 0 ∧ statusCode .checksumMismatch = 1 ∧ statusCode .invalidMessageType = 2 ∧
  statusCode .invalidSensorType = 3 ∧ statusCode .invalidActuatorType = 4 ∧ statusCode .bufferTooShort = 5 ∧
  statusCode .invalidErrorCode = 6 ∧ ∀ st, statusCode st ≠ 7

/-! ### Integer Codec -/

/-- 40_integer_codec.md R130. -/
def Obligations.Write16StoresTwoBytes : Prop :=
  ∀ (off : Nat) (view : View),
    (∀ value : BitVec 64, decodeRequest { op := 0x1, value := some value, off := some off, view } =
      .ok (.write16 (value.setWidth 16) off view)) ∧
    ∀ (v : BitVec 16) (s : State),
      (view.len < off + 2 → exec (.write16 v off view) s = .fault .range) ∧
      (off + 2 ≤ view.len → ∃ t, exec (.write16 v off view) s = .next t ∧
        t.rsp = { status := some .ok, count := some 2 } ∧
        (∀ k < 2, t.byteAt view (off + k) = v.extractLsb' (8 * k) 8) ∧
        sameOutside s t (view.base + off) 2 ∧ sameRest s t)

/-- 40_integer_codec.md R131. -/
def Obligations.Write32StoresFourBytes : Prop :=
  ∀ (off : Nat) (view : View),
    (∀ value : BitVec 64, decodeRequest { op := 0x2, value := some value, off := some off, view } =
      .ok (.write32 (value.setWidth 32) off view)) ∧
    ∀ (v : BitVec 32) (s : State),
      (view.len < off + 4 → exec (.write32 v off view) s = .fault .range) ∧
      (off + 4 ≤ view.len → ∃ t, exec (.write32 v off view) s = .next t ∧
        t.rsp = { status := some .ok, count := some 4 } ∧
        (∀ k < 4, t.byteAt view (off + k) = v.extractLsb' (8 * k) 8) ∧
        sameOutside s t (view.base + off) 4 ∧ sameRest s t)

/-- 40_integer_codec.md R132. -/
def Obligations.Write64StoresEightBytes : Prop :=
  ∀ (off : Nat) (view : View),
    (∀ value : BitVec 64, decodeRequest { op := 0x3, value := some value, off := some off, view } =
      .ok (.write64 value off view)) ∧
    ∀ (v : BitVec 64) (s : State),
      (view.len < off + 8 → exec (.write64 v off view) s = .fault .range) ∧
      (off + 8 ≤ view.len → ∃ t, exec (.write64 v off view) s = .next t ∧
        t.rsp = { status := some .ok, count := some 8 } ∧
        (∀ k < 8, t.byteAt view (off + k) = v.extractLsb' (8 * k) 8) ∧
        sameOutside s t (view.base + off) 8 ∧ sameRest s t)

/-- 40_integer_codec.md R133: zero-extended, nothing but the response changed. -/
def Obligations.Read16LoadsTwoBytes : Prop :=
  ∀ (off : Nat) (view : View),
    decodeRequest { op := 0x4, off := some off, view } = .ok (.read16 off view) ∧
    ∀ s : State,
      (view.len < off + 2 → exec (.read16 off view) s = .fault .range) ∧
      (off + 2 ≤ view.len → exec (.read16 off view) s = .next { s with rsp :=
        { status := some .ok
          value := some ((s.byteAt view (off + 1) ++ s.byteAt view off : BitVec 16).setWidth 64) } })

/-- 40_integer_codec.md R134. -/
def Obligations.Read32LoadsFourBytes : Prop :=
  ∀ (off : Nat) (view : View),
    decodeRequest { op := 0x5, off := some off, view } = .ok (.read32 off view) ∧
    ∀ s : State,
      (view.len < off + 4 → exec (.read32 off view) s = .fault .range) ∧
      (off + 4 ≤ view.len → exec (.read32 off view) s = .next { s with rsp :=
        { status := some .ok
          value := some ((s.byteAt view (off + 3) ++ s.byteAt view (off + 2) ++ s.byteAt view (off + 1) ++
            s.byteAt view off : BitVec 32).setWidth 64) } })

/-- 40_integer_codec.md R135. -/
def Obligations.Read64LoadsEightBytes : Prop :=
  ∀ (off : Nat) (view : View),
    decodeRequest { op := 0x6, off := some off, view } = .ok (.read64 off view) ∧
    ∀ s : State,
      (view.len < off + 8 → exec (.read64 off view) s = .fault .range) ∧
      (off + 8 ≤ view.len → exec (.read64 off view) s = .next { s with rsp :=
        { status := some .ok
          value := some (s.byteAt view (off + 7) ++ s.byteAt view (off + 6) ++ s.byteAt view (off + 5) ++
            s.byteAt view (off + 4) ++ s.byteAt view (off + 3) ++ s.byteAt view (off + 2) ++
            s.byteAt view (off + 1) ++ s.byteAt view off : BitVec 64) } })

/-- 40_integer_codec.md R136: after a WRITE, a READ of the same width at the same offset gives the value back, however
the rest of the storage changed in between. -/
def Obligations.ReadAfterWriteGivesValue : Prop :=
  ∀ (off : Nat) (view : View) (s t u : State),
    (∀ v : BitVec 16, exec (.write16 v off view) s = .next t →
      (∀ k < 2, u.byteAt view (off + k) = t.byteAt view (off + k)) →
      exec (.read16 off view) u = .next { u with rsp := { status := some .ok, value := some (v.setWidth 64) } }) ∧
    (∀ v : BitVec 32, exec (.write32 v off view) s = .next t →
      (∀ k < 4, u.byteAt view (off + k) = t.byteAt view (off + k)) →
      exec (.read32 off view) u = .next { u with rsp := { status := some .ok, value := some (v.setWidth 64) } }) ∧
    (∀ v : BitVec 64, exec (.write64 v off view) s = .next t →
      (∀ k < 8, u.byteAt view (off + k) = t.byteAt view (off + k)) →
      exec (.read64 off view) u = .next { u with rsp := { status := some .ok, value := some v } })

/-- 20_memory.md R54: a narrower read sees the low-order part at the same offset, and the higher parts further on. -/
def Obligations.MixedWidthReads : Prop :=
  ∀ (off : Nat) (view : View) (s t : State),
    (∀ v : BitVec 32, exec (.write32 v off view) s = .next t →
      exec (.read16 off view) t =
        .next { t with rsp := { status := some .ok, value := some ((v.extractLsb' 0 16).setWidth 64) } } ∧
      exec (.read16 (off + 2) view) t =
        .next { t with rsp := { status := some .ok, value := some ((v.extractLsb' 16 16).setWidth 64) } }) ∧
    (∀ v : BitVec 64, exec (.write64 v off view) s = .next t →
      exec (.read32 (off + 4) view) t =
        .next { t with rsp := { status := some .ok, value := some ((v.extractLsb' 32 32).setWidth 64) } })

/-! ### CRC-8 Engine -/

/-- 41_crc8.md R151, with the update step of R150, which is the spec's own decision D4 (log entry 9): the checksum of the view's bytes in rising order; a fault out of range; nothing else changed. -/
def Obligations.Crc8ReturnsChecksum : Prop :=
  ∀ (off n : Nat) (view : View),
    decodeRequest { op := 0x7, off := some off, n := some n, view } = .ok (.crc8 off n view) ∧
    ∀ s : State,
      (view.len < off + n → exec (.crc8 off n view) s = .fault .range) ∧
      (off + n ≤ view.len → exec (.crc8 off n view) s = .next { s with rsp :=
        { status := some .ok
          value := some (((List.range n).foldl
            (fun acc k => Config.crc8Table (acc ^^^ s.byteAt view (off + k))) (0xDE : Byte)).setWidth 64) } })

/-- 41_crc8.md R152: the empty sequence has the CRC `0xDE`, whatever the table. -/
def Obligations.Crc8OfNothingIsInit : Prop :=
  (∀ table : Byte → Byte, crc8Of table [] = 0xDE) ∧
  ∀ (off : Nat) (view : View) (s : State), off ≤ view.len →
    exec (.crc8 off 0 view) s = .next { s with rsp := { status := some .ok, value := some 0xDE } }

/-- 41_crc8.md R154, for every table. -/
def Obligations.Crc8SplitLaw : Prop :=
  ∀ (table : Byte → Byte) (x y : List Byte), crc8Of table (x ++ y) = crc8From table (crc8Of table x) y

/-- 41_crc8.md R156: under the named premise, and for every table that meets it. -/
def Obligations.Crc8DetectsOneByteUnderBijectiveTable : Prop :=
  ∀ table : Byte → Byte, TableBijective table →
    (∀ b, Function.Bijective fun acc => crc8Step table acc b) ∧
    (∀ y, Function.Injective fun acc => crc8From table acc y) ∧
    ∀ (before after : List Byte) (b b' : Byte), b ≠ b' →
      crc8Of table (before ++ b :: after) ≠ crc8Of table (before ++ b' :: after)

/-! ### ENCODE -/

/-- 42_message_codec.md R173, R176, R177: the header, the trailer over the bytes before it, the count; and what ENCODE
leaves alone: every byte outside `[0, 5+N)` of the view, and everything but storage and the response. -/
def Obligations.EncodeWritesHeaderAndTrailer : Prop :=
  ∀ (m : Message) (view : View) (s : State), m.wf = true → 22 ≤ view.len →
    ∃ t, exec (.encode m view) s = .next t ∧
      t.byteAt view 0 = m.type.code ∧ t.byteAt view 1 = m.subtype.code ∧
      t.byteAt view 2 = m.id ∧ t.byteAt view 3 = m.sequence ∧
      t.byteAt view (4 + payloadLen m.type m.subtype) =
        crc8Of Config.crc8Table (t.bytesAt view 0 (4 + payloadLen m.type m.subtype)) ∧
      t.rsp = { status := some .ok, count := some (5 + payloadLen m.type m.subtype) } ∧
      5 + payloadLen m.type m.subtype = frameLen m.type m.subtype ∧
      sameOutside s t view.base (5 + payloadLen m.type m.subtype) ∧ sameRest s t

/-- 42_message_codec.md R175, 30_encoding.md R96, R98: each payload field at its offset, least significant byte first,
signed fields by their two's-complement pattern. -/
def Obligations.EncodeWritesPayloadFields : Prop :=
  ∀ (m : Message) (view : View) (s t : State), exec (.encode m view) s = .next t →
    match m.payload with
    | .error code => t.byteAt view 4 = code.code
    | .time micros => ∀ k < 8, t.byteAt view (4 + k) = micros.extractLsb' (8 * k) 8
    | .servo f | .motor f | .proximity f => ∀ k < 2, t.byteAt view (4 + k) = f.toBitVec.extractLsb' (8 * k) 8
    | .led value => t.byteAt view 4 = value
    | .gyroscope x y z | .accelerometer x y z | .magnetometer x y z | .orientation x y z =>
      ∀ k < 4, t.byteAt view (4 + k) = x.toBitVec.extractLsb' (8 * k) 8 ∧
        t.byteAt view (8 + k) = y.toBitVec.extractLsb' (8 * k) 8 ∧
        t.byteAt view (12 + k) = z.toBitVec.extractLsb' (8 * k) 8
    | .mouse x y duration quality =>
      (∀ k < 4, t.byteAt view (4 + k) = x.toBitVec.extractLsb' (8 * k) 8 ∧
        t.byteAt view (8 + k) = y.toBitVec.extractLsb' (8 * k) 8 ∧
        t.byteAt view (12 + k) = duration.extractLsb' (8 * k) 8) ∧ t.byteAt view 16 = quality
    | .sbus c flags =>
      (∀ k < 2, t.byteAt view (4 + k) = c.c0.extractLsb' (8 * k) 8 ∧
        t.byteAt view (6 + k) = c.c1.extractLsb' (8 * k) 8 ∧ t.byteAt view (8 + k) = c.c2.extractLsb' (8 * k) 8 ∧
        t.byteAt view (10 + k) = c.c3.extractLsb' (8 * k) 8 ∧ t.byteAt view (12 + k) = c.c4.extractLsb' (8 * k) 8 ∧
        t.byteAt view (14 + k) = c.c5.extractLsb' (8 * k) 8 ∧ t.byteAt view (16 + k) = c.c6.extractLsb' (8 * k) 8 ∧
        t.byteAt view (18 + k) = c.c7.extractLsb' (8 * k) 8) ∧ t.byteAt view 20 = flags
    | .empty => True

/-- 42_message_codec.md R171, R172, 60_exceptions.md R239 items 3 and 4: an ill-formed Message is refused on any view; a
well-formed one faults on a view of fewer than 22 bytes, even where its frame would fit. -/
def Obligations.EncodeStops : Prop :=
  ∀ (m : Message) (view : View) (s : State),
    (m.wf = false → exec (.encode m view) s = .refused .illFormedMessage) ∧
    (m.wf = true → view.len < 22 → exec (.encode m view) s = .fault .capacity)

/-- 10_state.md R36, R37: what a well-formed Message is. -/
def Obligations.WellFormedMessage : Prop :=
  ∀ m : Message, m.wf = true ↔
    ((∃ a, m.subtype = .actuator a) ↔ m.type = .actuator) ∧ m.payload.variant = shape m.type m.subtype

/-- 42_message_codec.md R209, derived there from R173 to R176: what two ENCODEs leave at `[0, 4+N)` tells their Messages
apart; and equal Messages give equal frames, trailer included, whatever the views held before. -/
def Obligations.EncodeIsInjective : Prop :=
  ∀ (m m' : Message) (view view' : View) (s s' t t' : State),
    exec (.encode m view) s = .next t → exec (.encode m' view') s' = .next t' →
    ((∀ o < 4 + payloadLen m.type m.subtype, t.byteAt view o = t'.byteAt view' o) → m = m') ∧
    (m = m' → ∀ o < 5 + payloadLen m.type m.subtype, t.byteAt view o = t'.byteAt view' o)

/-! ### DECODE -/

/-- 42_message_codec.md R189 to R191, R193, R195 to R197, 60_exceptions.md R240: DECODE answers on every view, changes
nothing but the response, and raises the first error in the order of the rule, alone in the response registers. -/
def Obligations.DecodeRaisesFirstError : Prop :=
  ∀ (view : View) (s : State), ∃ r : Response, exec (.decode view) s = .next { s with rsp := r } ∧
    if view.len < 1 then r = { status := some .bufferTooShort }
    else if 0x07#8 < s.byteAt view 0 then r = { status := some .invalidMessageType }
    else if view.len < 2 then r = { status := some .bufferTooShort }
    else if s.byteAt view 0 = 0x06 ∧ 0x02#8 < s.byteAt view 1 then r = { status := some .invalidActuatorType }
    else if s.byteAt view 0 ≠ 0x06 ∧ 0x0B#8 < s.byteAt view 1 then r = { status := some .invalidSensorType }
    else if view.len < 4 then r = { status := some .bufferTooShort }
    else if view.len < 5 + payloadLenByCode (s.byteAt view 0) (s.byteAt view 1) then
      r = { status := some .bufferTooShort }
    else if crc8Of Config.crc8Table (s.bytesAt view 0 (4 + payloadLenByCode (s.byteAt view 0) (s.byteAt view 1))) ≠
        s.byteAt view (4 + payloadLenByCode (s.byteAt view 0) (s.byteAt view 1)) then
      r = { status := some .checksumMismatch }
    else if s.byteAt view 0 = 0x00 ∧ 0x06#8 < s.byteAt view 4 then r = { status := some .invalidErrorCode }
    else r.status = some .ok ∧ r.value = none

/-- 42_message_codec.md R192, R194, R198, 30_encoding.md R97: on `OK`, the Message is well-formed, its tags, id and
sequence are bytes 0 to 3, each payload field is the little-endian reading of its bytes, signed fields two's complement,
and the count is 5 + N. -/
def Obligations.DecodeDeliversMessage : Prop :=
  ∀ (view : View) (s t : State), exec (.decode view) s = .next t → t.rsp.status = some .ok →
    ∃ m : Message, t.rsp.msg = some m ∧ m.wf = true ∧
      t.rsp.count = some (5 + payloadLenByCode (s.byteAt view 0) (s.byteAt view 1)) ∧
      m.type.code = s.byteAt view 0 ∧ m.subtype.code = s.byteAt view 1 ∧
      m.id = s.byteAt view 2 ∧ m.sequence = s.byteAt view 3 ∧
      match m.payload with
      | .error code => code.code = s.byteAt view 4
      | .time micros => micros = memRead64 (s.byteAt view) 4
      | .servo f | .motor f | .proximity f => f.toInt = (s.byteAt view 5 ++ s.byteAt view 4 : BitVec 16).toInt
      | .led value => value = s.byteAt view 4
      | .gyroscope x y z | .accelerometer x y z | .magnetometer x y z | .orientation x y z =>
        x.toInt = (memRead32 (s.byteAt view) 4).toInt ∧ y.toInt = (memRead32 (s.byteAt view) 8).toInt ∧
          z.toInt = (memRead32 (s.byteAt view) 12).toInt
      | .mouse x y duration quality =>
        x.toInt = (memRead32 (s.byteAt view) 4).toInt ∧ y.toInt = (memRead32 (s.byteAt view) 8).toInt ∧
          duration = memRead32 (s.byteAt view) 12 ∧ quality = s.byteAt view 16
      | .sbus c flags =>
        c = ⟨memRead16 (s.byteAt view) 4, memRead16 (s.byteAt view) 6, memRead16 (s.byteAt view) 8,
          memRead16 (s.byteAt view) 10, memRead16 (s.byteAt view) 12, memRead16 (s.byteAt view) 14,
          memRead16 (s.byteAt view) 16, memRead16 (s.byteAt view) 18⟩ ∧ flags = s.byteAt view 20
      | .empty => True

/-- 20_memory.md R57: what lies at and past `LEN` cannot matter to DECODE. -/
def Obligations.DecodeReadsInsideView : Prop :=
  ∀ (view : View) (s s' : State), sameView view s s' →
    ∃ r, exec (.decode view) s = .next { s with rsp := r } ∧ exec (.decode view) s' = .next { s' with rsp := r }

/-- 42_message_codec.md R199: after `OK` with count k, the bytes from offset k on did not matter, nor how many there
were. -/
def Obligations.DecodeIgnoresTrailingBytes : Prop :=
  ∀ (base len len' k : Nat) (s s' t : State), exec (.decode ⟨base, len⟩) s = .next t → t.rsp.status = some .ok →
    t.rsp.count = some k → k ≤ len' → (∀ o < k, Memory.read s'.mem (base + o) = Memory.read s.mem (base + o)) →
    k ≤ len ∧ exec (.decode ⟨base, len'⟩) s' = .next { s' with rsp := t.rsp }

/-- 30_encoding.md R104: two views that decode to the same Message hold the same frame, bit for bit. -/
def Obligations.NoDontCareBits : Prop :=
  ∀ (view view' : View) (s s' t t' : State) (m : Message), exec (.decode view) s = .next t →
    exec (.decode view') s' = .next t' → t.rsp.msg = some m → t'.rsp.msg = some m →
    t.rsp.count = t'.rsp.count ∧ ∀ k, t.rsp.count = some k → ∀ o < k, s.byteAt view o = s'.byteAt view' o

/-! ### The message laws -/

/-- 42_message_codec.md R205: ENCODE and then DECODE on the same view gives the Message back, whatever happened outside
the frame in between. -/
def Obligations.EncodeDecodeRoundTrip : Prop :=
  ∀ (m : Message) (view : View) (s : State), m.wf = true → 22 ≤ view.len →
    ∃ t k, exec (.encode m view) s = .next t ∧ t.rsp.count = some k ∧
      ∀ u : State, (∀ o < k, u.byteAt view o = t.byteAt view o) →
        exec (.decode view) u =
          .next { u with rsp := { status := some .ok, count := some k, msg := some m } }

/-- 42_message_codec.md R208 (case 1 of R207): a frame whose trailer alone was altered. -/
def Obligations.AlteredTrailerIsDetected : Prop :=
  ∀ (m : Message) (view : View) (s t u : State), exec (.encode m view) s = .next t →
    (∀ o < 4 + payloadLen m.type m.subtype, u.byteAt view o = t.byteAt view o) →
    u.byteAt view (4 + payloadLen m.type m.subtype) ≠ t.byteAt view (4 + payloadLen m.type m.subtype) →
    exec (.decode view) u = .next { u with rsp := { status := some .checksumMismatch } }

/-- 42_message_codec.md R207 case 2 under `TABLE_BIJECTIVE`, for every table that meets the premise: any other value of
one byte of id, sequence or payload is detected. -/
def Obligations.AlteredByteIsDetectedUnderBijectiveTable : Prop :=
  ∀ table : Byte → Byte, TableBijective table → ∀ (m : Message) (len k : Nat) (b : Byte), m.wf = true →
    5 + payloadLen m.type m.subtype ≤ len → 2 ≤ k → k < 4 + payloadLen m.type m.subtype →
    (frameBytes table m).getD k 0 ≠ b →
    decodeResponse table len (sourceOf ((frameBytes table m).set k b)) = { status := some .checksumMismatch }

/-- 42_message_codec.md R207 case 2 without the premise, for every table: a mismatch, another Message, or for an ERROR
frame `InvalidErrorCode`; never the Message that was encoded. -/
def Obligations.AlteredByteNeverYieldsSameMessage : Prop :=
  ∀ (table : Byte → Byte) (m : Message) (len k : Nat) (b : Byte), m.wf = true →
    5 + payloadLen m.type m.subtype ≤ len → 2 ≤ k → k < 4 + payloadLen m.type m.subtype →
    (frameBytes table m).getD k 0 ≠ b →
    ∃ r, decodeResponse table len (sourceOf ((frameBytes table m).set k b)) = r ∧
      (r = { status := some .checksumMismatch } ∨
       (r.status = some .ok ∧ ∃ m', r.msg = some m' ∧ m' ≠ m ∧ m'.type = m.type ∧ m'.subtype = m.subtype) ∨
       (r = { status := some .invalidErrorCode } ∧ m.type = .error))

/-- The two statements above are about the function the machine runs, on its table. -/
def Obligations.DecodeRunsDecodeResponse : Prop :=
  ∀ (view : View) (s : State), exec (.decode view) s =
    .next { s with rsp := decodeResponse Config.crc8Table view.len (s.byteAt view) }

/-! ### Frame kinds

What a frame kind does as an instruction is the model's choice (log entry 5): DECODE's steps 5 to 7 on that frame. -/

/-- K2, K3, K4, K6, K10 and K21 (30_encoding.md R95): header only, the trailer at offset 4. -/
def Obligations.HeaderOnlyFrameKinds : Prop :=
  ∀ (t : SensorType) (id q c : Byte) (s : State),
    exec (.k2SensorEnable t id q c) s = .next { s with
     rsp :=
      if crc8Of Config.crc8Table [0x01, t.code, id, q] = c
      then okMessage ⟨.sensorEnable, .sensor t, id, q, .empty⟩ 5 else raised .checksumMismatch } ∧
    exec (.k3SensorDisable t id q c) s = .next { s with
     rsp :=
      if crc8Of Config.crc8Table [0x02, t.code, id, q] = c
      then okMessage ⟨.sensorDisable, .sensor t, id, q, .empty⟩ 5 else raised .checksumMismatch } ∧
    exec (.k4SensorGet t id q c) s = .next { s with
     rsp :=
      if crc8Of Config.crc8Table [0x04, t.code, id, q] = c
      then okMessage ⟨.sensorGet, .sensor t, id, q, .empty⟩ 5 else raised .checksumMismatch } ∧
    exec (.k6ActuatorAck t id q c) s = .next { s with
     rsp :=
      if crc8Of Config.crc8Table [0x07, t.code, id, q] = c
      then okMessage ⟨.actuatorAck, .sensor t, id, q, .empty⟩ 5 else raised .checksumMismatch } ∧
    exec (.k10SensorDataUnknown id q c) s = .next { s with
     rsp :=
      if crc8Of Config.crc8Table [0x03, 0x00, id, q] = c
      then okMessage ⟨.sensorData, .sensor .unknown, id, q, .empty⟩ 5 else raised .checksumMismatch } ∧
    exec (.k21SensorDataSensorTypeEnd id q c) s = .next { s with
     rsp :=
      if crc8Of Config.crc8Table [0x03, 0x0B, id, q] = c
      then okMessage ⟨.sensorData, .sensor .sensorTypeEnd, id, q, .empty⟩ 5 else raised .checksumMismatch }

/-- K1 and K5 (30_encoding.md R95): an ERROR frame's code is checked after the trailer; a TIME frame carries its
subtype. -/
def Obligations.ErrorAndTimeFrameKinds : Prop :=
  ∀ (t : SensorType) (id q c code : Byte) (micros : BitVec 64) (s : State),
    exec (.k1Error t id q code c) s = .next { s with
     rsp :=
      if crc8Of Config.crc8Table [0x00, t.code, id, q, code] = c then
        match errorCodeOf code with
        | some e => okMessage ⟨.error, .sensor t, id, q, .error e⟩ 6
        | none => raised .invalidErrorCode
      else raised .checksumMismatch } ∧
    exec (.k5Time t id q micros c) s = .next { s with
     rsp :=
      if crc8Of Config.crc8Table ([0x05, t.code, id, q] ++ bytes64 micros) = c
      then okMessage ⟨.time, .sensor t, id, q, .time micros⟩ 13 else raised .checksumMismatch }

/-- K7, K8, K11, K16 and K17 (30_encoding.md R95): one signed 16-bit field. -/
def Obligations.TwoByteFrameKinds : Prop :=
  ∀ (id q c : Byte) (f : Int16) (s : State),
    exec (.k7ActuatorServo id q f c) s = .next { s with
     rsp :=
      if crc8Of Config.crc8Table ([0x06, 0x00, id, q] ++ bytes16 f.toBitVec) = c
      then okMessage ⟨.actuator, .actuator .servo, id, q, .servo f⟩ 7 else raised .checksumMismatch } ∧
    exec (.k8ActuatorMotor id q f c) s = .next { s with
     rsp :=
      if crc8Of Config.crc8Table ([0x06, 0x01, id, q] ++ bytes16 f.toBitVec) = c
      then okMessage ⟨.actuator, .actuator .motor, id, q, .motor f⟩ 7 else raised .checksumMismatch } ∧
    exec (.k11SensorDataProximity id q f c) s = .next { s with
     rsp :=
      if crc8Of Config.crc8Table ([0x03, 0x01, id, q] ++ bytes16 f.toBitVec) = c
      then okMessage ⟨.sensorData, .sensor .proximity, id, q, .proximity f⟩ 7 else raised .checksumMismatch } ∧
    exec (.k16SensorDataServo id q f c) s = .next { s with
     rsp :=
      if crc8Of Config.crc8Table ([0x03, 0x06, id, q] ++ bytes16 f.toBitVec) = c
      then okMessage ⟨.sensorData, .sensor .servo, id, q, .servo f⟩ 7 else raised .checksumMismatch } ∧
    exec (.k17SensorDataMotor id q f c) s = .next { s with
     rsp :=
      if crc8Of Config.crc8Table ([0x03, 0x07, id, q] ++ bytes16 f.toBitVec) = c
      then okMessage ⟨.sensorData, .sensor .motor, id, q, .motor f⟩ 7 else raised .checksumMismatch }

/-- K12 to K15 (30_encoding.md R95): three signed 32-bit fields in the order x, y, z. -/
def Obligations.ThreeAxisFrameKinds : Prop :=
  ∀ (id q c : Byte) (x y z : Int32) (s : State),
    exec (.k12SensorDataGyroscope id q x y z c) s = .next { s with
     rsp :=
      if crc8Of Config.crc8Table
        ([0x03, 0x02, id, q] ++ bytes32 x.toBitVec ++ bytes32 y.toBitVec ++ bytes32 z.toBitVec) = c
      then okMessage ⟨.sensorData, .sensor .gyroscope, id, q, .gyroscope x y z⟩ 17
      else raised .checksumMismatch } ∧
    exec (.k13SensorDataAccelerometer id q x y z c) s = .next { s with
     rsp :=
      if crc8Of Config.crc8Table
        ([0x03, 0x03, id, q] ++ bytes32 x.toBitVec ++ bytes32 y.toBitVec ++ bytes32 z.toBitVec) = c
      then okMessage ⟨.sensorData, .sensor .accelerometer, id, q, .accelerometer x y z⟩ 17
      else raised .checksumMismatch } ∧
    exec (.k14SensorDataMagnetometer id q x y z c) s = .next { s with
     rsp :=
      if crc8Of Config.crc8Table
        ([0x03, 0x04, id, q] ++ bytes32 x.toBitVec ++ bytes32 y.toBitVec ++ bytes32 z.toBitVec) = c
      then okMessage ⟨.sensorData, .sensor .magnetometer, id, q, .magnetometer x y z⟩ 17
      else raised .checksumMismatch } ∧
    exec (.k15SensorDataOrientation id q x y z c) s = .next { s with
     rsp :=
      if crc8Of Config.crc8Table
        ([0x03, 0x05, id, q] ++ bytes32 x.toBitVec ++ bytes32 y.toBitVec ++ bytes32 z.toBitVec) = c
      then okMessage ⟨.sensorData, .sensor .orientation, id, q, .orientation x y z⟩ 17
      else raised .checksumMismatch }

/-- K9, K18, K19 and K20 (30_encoding.md R95): the LED kinds, MOUSE and SBUS. -/
def Obligations.LedMouseSbusFrameKinds : Prop :=
  ∀ (id q c v : Byte) (x y : Int32) (d : BitVec 32) (ch : Channels) (s : State),
    exec (.k9ActuatorLed id q v c) s = .next { s with
     rsp :=
      if crc8Of Config.crc8Table [0x06, 0x02, id, q, v] = c
      then okMessage ⟨.actuator, .actuator .led, id, q, .led v⟩ 6 else raised .checksumMismatch } ∧
    exec (.k18SensorDataLed id q v c) s = .next { s with
     rsp :=
      if crc8Of Config.crc8Table [0x03, 0x08, id, q, v] = c
      then okMessage ⟨.sensorData, .sensor .led, id, q, .led v⟩ 6 else raised .checksumMismatch } ∧
    exec (.k19SensorDataMouse id q x y d v c) s = .next { s with
     rsp :=
      if crc8Of Config.crc8Table
        ([0x03, 0x09, id, q] ++ bytes32 x.toBitVec ++ bytes32 y.toBitVec ++ bytes32 d ++ [v]) = c
      then okMessage ⟨.sensorData, .sensor .mouse, id, q, .mouse x y d v⟩ 18 else raised .checksumMismatch } ∧
    exec (.k20SensorDataSbus id q ch v c) s = .next { s with
     rsp :=
      if crc8Of Config.crc8Table
        ([0x03, 0x0A, id, q] ++ bytes16 ch.c0 ++ bytes16 ch.c1 ++ bytes16 ch.c2 ++ bytes16 ch.c3 ++ bytes16 ch.c4 ++
          bytes16 ch.c5 ++ bytes16 ch.c6 ++ bytes16 ch.c7 ++ [v]) = c
      then okMessage ⟨.sensorData, .sensor .sbus, id, q, .sbus ch v⟩ 22 else raised .checksumMismatch }

/-- 42_message_codec.md R194, R199: where a frame's bytes stand at the start of a view, DECODE does what the frame's kind
does, whatever lies behind it: the type-dispatch multiplexer. -/
def Obligations.DecodeRunsTheFrameKind : Prop :=
  ∀ (i : Instr) (f : WireFrame) (view : View) (s : State), i.frame? = some f → f.bytes.length ≤ view.len →
    (∀ o < f.bytes.length, s.byteAt view o = f.bytes.getD o 0) → exec (.decode view) s = exec i s

/-! ### All instructions -/

/-- 70_reset_and_hazards.md R263, 60_exceptions.md R235, R238: each of the nine requests completes exactly where the
caller's duties about its operands are met; elsewhere it faults or, for a Message, is refused. That the 21 frame kinds
complete, on all operands, is the model's choice of what a frame kind does as an instruction (log entry 5). -/
def Obligations.CompletesExactlyWhenDutiesMet : Prop :=
  ∀ (i : Instr) (s : State),
    (i.wf = true → ∃ t, exec i s = .next t) ∧
    (i.wf = false → exec i s = .fault .range ∨ exec i s = .fault .capacity ∨ exec i s = .refused .illFormedMessage)

/-- 42_message_codec.md R200, 20_memory.md R59, R60, R62: the READ operations, CRC8 and DECODE only read, and leave all
storage and everything but the response unchanged. That a frame kind does so too is the model's choice (log entry 5). -/
def Obligations.ReadersChangeOnlyTheResponse : Prop :=
  ∀ (i : Instr) (s t : State), (∀ v off view, i ≠ .write16 v off view) → (∀ v off view, i ≠ .write32 v off view) →
    (∀ v off view, i ≠ .write64 v off view) → (∀ m view, i ≠ .encode m view) → exec i s = .next t →
    t = { s with rsp := t.rsp }

/-- 20_memory.md R52: no operation writes a byte outside its view. -/
def Obligations.NothingOutsideTheViewIsWritten : Prop :=
  ∀ (i : Instr) (r : Request) (s t : State), i.parts = .inl r → exec i s = .next t →
    sameOutside s t r.view.base r.view.len ∧ sameRest s t

/-- 10_state.md R21: a transaction's outcome depends on the request and the view's bytes alone; two states that agree on
them answer alike, and agree on the view afterwards. -/
def Obligations.OutcomeDependsOnRequestAndViewAlone : Prop :=
  ∀ (i : Instr) (r : Request) (s s' : State), i.parts = .inl r → sameView r.view s s' →
    (∀ t, exec i s = .next t → ∃ t', exec i s' = .next t' ∧ t'.rsp = t.rsp ∧ sameView r.view t t') ∧
    (∀ f, exec i s = .fault f → exec i s' = .fault f) ∧
    (∀ q, exec i s = .refused q → exec i s' = .refused q)

/-- 60_exceptions.md R233: the Integer Codec operations, CRC8 and ENCODE report no error status. -/
def Obligations.OnlyDecodeReportsErrors : Prop :=
  ∀ (i : Instr) (s t : State), exec i s = .next t → i.frame? = none → (∀ view, i ≠ .decode view) →
    t.rsp.status = some .ok

/-- 10_state.md R23, 20_memory.md R51: a byte count fits in `ADDR_W` bits where the view does, for every `ADDR_W`. -/
def Obligations.CountFitsOffsetWidth : Prop :=
  ∀ (w : Nat) (i : Instr) (r : Request) (s t : State) (k : Nat), i.parts = .inl r → r.view.fits w →
    exec i s = .next t → t.rsp.count = some k → k < 2 ^ w

/-! ### Steps -/

/-- A request that decodes to an instruction, on a view no one else uses, runs that instruction, with the request in the
request registers and the event taken off the program (00_scope.md R7, 10_state.md R22); where it completes, the
transaction returns and nothing of the request is kept (10_state.md R39, 20_memory.md R71; for the registers those rules
do not name, log entry 14). -/
def Obligations.StepRunsTheDecodedRequest : Prop :=
  ∀ (s : State) (r : Request) (rest : List Event) (i : Instr), s.program = .request r :: rest →
    decode (.request r) = .ok i → s.viewShared r.view = false →
    (∀ t, exec i { s with program := rest, req := some r } = .next t → step s = .next { t with req := none }) ∧
    (∀ f, exec i { s with program := rest, req := some r } = .fault f → step s = .fault f) ∧
    ∀ q, exec i { s with program := rest, req := some r } = .refused q → step s = .refused q

/-- The same for a frame: a DECODE request on a view that starts with a frame's bytes runs that frame kind. That a frame
kind is an instruction a step can run is the model's choice (log entry 5). -/
def Obligations.StepRunsTheDecodedFrame : Prop :=
  ∀ (s : State) (r : Request) (rest : List Event) (i : Instr), s.program = .request r :: rest → r.op = 0x9 →
    decode (.frame (s.bytesAt r.view 0 r.view.len)) = .ok i → s.viewShared r.view = false →
    ∃ t, exec i { s with program := rest, req := some r } = .next t ∧ step s = .next { t with req := none }

/-- 20_memory.md R66, 60_exceptions.md R238, R239 item 2: a request on a view that shares a byte with a range others use
or write is refused, whatever else is wrong with it but a reserved or incomplete selection; an empty view shares none. -/
def Obligations.SharedBuffersAreRefused : Prop :=
  ∀ (s : State) (r : Request) (rest : List Event) (i : Instr), s.program = .request r :: rest →
    decode (.request r) = .ok i →
    ((∃ v ∈ s.running ++ s.writing, r.view.shares v) ↔ step s = .refused .sharedBuffer)

/-- 10_state.md R23, 60_exceptions.md R235: reading a response register the last transaction did not write faults. That
reading one it wrote changes nothing but the program is the model's choice (log entry 16). -/
def Obligations.UnwrittenResponseFaults : Prop :=
  ∀ (s : State) (reg : RspReg) (rest : List Event), s.program = .read reg :: rest →
    (match reg with
      | .status => s.rsp.status = none
      | .value => s.rsp.value = none
      | .count => s.rsp.count = none
      | .msg => s.rsp.msg = none) ∧ step s = .fault .unwritten ∨
    (match reg with
      | .status => s.rsp.status ≠ none
      | .value => s.rsp.value ≠ none
      | .count => s.rsp.count ≠ none
      | .msg => s.rsp.msg ≠ none) ∧ step s = .next { s with program := rest }

/-- 70_reset_and_hazards.md R260, 93_implementation_defined.md U8: a transaction cut off by reset leaves some prefix of
the writes it would have made, in their order, and no request or response; nothing outside that prefix changes. -/
def Obligations.ResetDuringTransactionLeavesAPrefix : Prop :=
  ∀ (s t : State) (r : Request) (rest : List Event) (i : Instr), s.program = .cutByReset r :: rest →
    decode (.request r) = .ok i → s.viewShared r.view = false → exec i { s with program := rest, req := some r } = .next t →
    ∃ u, ∃ k ≤ (plannedWrites i).2.length, step s = .next u ∧ u.req = none ∧ u.rsp = {} ∧
      u.running = s.running ∧ u.writing = s.writing ∧ u.program = rest ∧
      (∀ o < k, Memory.read u.mem ((plannedWrites i).1 + o) = Memory.read t.mem ((plannedWrites i).1 + o)) ∧
      (∀ a, a < (plannedWrites i).1 ∨ (plannedWrites i).1 + k ≤ a → Memory.read u.mem a = Memory.read s.mem a)

/-- 10_state.md R40: after reset the request and response registers hold no value, so reading a response register
faults; reset between transactions leaves that too, and keeps the caller's storage. -/
def Obligations.ResetLeavesRegistersWithoutValue : Prop :=
  State.reset.req = none ∧ State.reset.rsp = { status := none, value := none, count := none, msg := none } ∧
  (∀ (reg : RspReg) (rest : List Event), step { State.reset with program := .read reg :: rest } = .fault .unwritten) ∧
  ∀ (s : State) (rest : List Event), s.program = .reset :: rest →
    step s = .next { s with program := rest, req := none, rsp := {} }

/-- 70_reset_and_hazards.md R266, 20_memory.md R66: a store is refused exactly where it writes a view while a transaction
on it runs, at the view's first and last byte as inside it. -/
def Obligations.StoresIntoRunningViewsAreRefused : Prop :=
  ∀ (s : State) (x : Nat) (b : Byte) (rest : List Event), s.program = .store x b :: rest →
    ((∃ v ∈ s.running, v.base ≤ x ∧ x < v.base + v.len) ↔ step s = .refused .sharedBuffer)

/-- 20_memory.md R66, 70_reset_and_hazards.md R266: ranges of the other agents in which two running transactions share a
byte, or an agent writes a byte of a running transaction's view, are refused, and no others. -/
def Obligations.SchedulesThatBreakADutyAreRefused : Prop :=
  ∀ (s : State) (running writing : List View) (rest : List Event), s.program = .others running writing :: rest →
    (¬(running.Pairwise (fun v w => ¬v.shares w) ∧ ∀ v ∈ running, ∀ w ∈ writing, ¬v.shares w) ↔
      step s = .refused .sharedBuffer)

/-- The model's own events (log entries 4 and 11), where no duty is broken: a store outside every running transaction's
view writes one byte, also where other agents write (log entry 24); a change of the ranges in use sets them; with an empty
program the core waits. -/
def Obligations.SurroundingsStep : Prop :=
  (∀ (s : State) (x : Nat) (b : Byte) (rest : List Event), s.program = .store x b :: rest →
    (∀ v ∈ s.running, ¬(v.base ≤ x ∧ x < v.base + v.len)) →
    ∃ t, step s = .next t ∧ Memory.read t.mem x = b ∧ sameOutside s t x 1 ∧ t.rsp = s.rsp ∧ t.req = s.req ∧
      t.program = rest ∧ t.running = s.running ∧ t.writing = s.writing ∧ t.draws = s.draws) ∧
  (∀ (s : State) (running writing : List View) (rest : List Event), s.program = .others running writing :: rest →
    Duties running writing → step s = .next { s with program := rest, running, writing }) ∧
  ∀ s : State, s.program = [] → step s = .next s

/-! ### The invariant -/

/-- Nothing kept of a returned transaction's request (10_state.md R39, 20_memory.md R71; log entry 14), memory in canonical
form (log entry 1), and response registers as a transaction leaves them: an error status alone
(42_message_codec.md R186), a Message well-formed and beside its frame's length (42_message_codec.md R198), never a value
and a count together (10_state.md R28); no schedule of the other agents that breaks a duty (20_memory.md R66). Every step
keeps it. -/
def Obligations.StepKeepsInvariant : Prop := ∀ s t : State, s.Inv → step s = .next t → t.Inv

/-- It holds right after reset. That the request and response registers hold no value there is 10_state.md R40; that memory
lists no byte (log entry 1), and that no other transaction runs and no other agent writes (log entry 22), so that the
memory and the duties clauses hold, is the model's choice. -/
def Obligations.ResetMeetsInvariant : Prop := State.reset.Inv
end

