-- ==== Sys2Proof/Laws/Bytes.lean ====
section
/-! SUPPORT. Byte order: splitting a value into its bytes and joining them are inverse (00_scope.md R12); tag codes and
the values they name (10_state.md R30 to R33). -/

namespace Sys2Proof

/-- Bit `i` of a join is the bit of the byte it falls in. -/
theorem join16 (v : BitVec 16) : (v.extractLsb' 8 8 ++ v.extractLsb' 0 8 : BitVec 16) = v := by
  apply BitVec.eq_of_getLsbD_eq
  intro i hi
  simp only [BitVec.getLsbD_append, BitVec.getLsbD_extractLsb']
  by_cases h : i < 8
  · simp [h]
  · have : 8 + (i - 8) = i := by omega
    simp [h, this]; omega

theorem join32 (v : BitVec 32) :
    (v.extractLsb' 24 8 ++ v.extractLsb' 16 8 ++ v.extractLsb' 8 8 ++ v.extractLsb' 0 8 : BitVec 32) = v := by
  apply BitVec.eq_of_getLsbD_eq
  intro i hi
  simp only [BitVec.getLsbD_append, BitVec.getLsbD_extractLsb']
  interval_cases i <;> simp

theorem join64 (v : BitVec 64) :
    (v.extractLsb' 56 8 ++ v.extractLsb' 48 8 ++ v.extractLsb' 40 8 ++ v.extractLsb' 32 8 ++
      v.extractLsb' 24 8 ++ v.extractLsb' 16 8 ++ v.extractLsb' 8 8 ++ v.extractLsb' 0 8 : BitVec 64) = v := by
  apply BitVec.eq_of_getLsbD_eq
  intro i hi
  simp only [BitVec.getLsbD_append, BitVec.getLsbD_extractLsb']
  interval_cases i <;> simp

theorem split16 (b a : Byte) : bytes16 (b ++ a) = [a, b] := by
  simp only [bytes16, List.cons.injEq, and_true]
  refine ⟨?_, ?_⟩ <;>
  · apply BitVec.eq_of_getLsbD_eq; intro i hi
    simp only [BitVec.getLsbD_append, BitVec.getLsbD_extractLsb', hi, decide_true, Bool.true_and]
    interval_cases i <;> simp

theorem split32 (d c b a : Byte) : bytes32 (d ++ c ++ b ++ a) = [a, b, c, d] := by
  simp only [bytes32, List.cons.injEq, and_true]
  refine ⟨?_, ?_, ?_, ?_⟩ <;>
  · apply BitVec.eq_of_getLsbD_eq; intro i hi
    simp only [BitVec.getLsbD_append, BitVec.getLsbD_extractLsb', hi, decide_true, Bool.true_and]
    interval_cases i <;> simp

theorem split64 (h g f e d c b a : Byte) :
    bytes64 (h ++ g ++ f ++ e ++ d ++ c ++ b ++ a) = [a, b, c, d, e, f, g, h] := by
  simp only [bytes64, List.cons.injEq, and_true]
  refine ⟨?_, ?_, ?_, ?_, ?_, ?_, ?_, ?_⟩ <;>
  · apply BitVec.eq_of_getLsbD_eq; intro i hi
    simp only [BitVec.getLsbD_append, BitVec.getLsbD_extractLsb', hi, decide_true, Bool.true_and]
    interval_cases i <;> simp

/-! ### Tags -/

@[simp] theorem messageTypeOf_code (t : MessageType) : messageTypeOf t.code = some t := by cases t <;> decide
@[simp] theorem sensorTypeOf_code (t : SensorType) : sensorTypeOf t.code = some t := by cases t <;> decide
@[simp] theorem actuatorTypeOf_code (t : ActuatorType) : actuatorTypeOf t.code = some t := by cases t <;> decide
@[simp] theorem errorCodeOf_code (t : ErrorCode) : errorCodeOf t.code = some t := by cases t <;> decide

theorem code_of_messageTypeOf {b : Byte} {t : MessageType} (h : messageTypeOf b = some t) : t.code = b := by
  simpa using List.find?_some h

theorem code_of_sensorTypeOf {b : Byte} {t : SensorType} (h : sensorTypeOf b = some t) : t.code = b := by
  simpa using List.find?_some h

theorem code_of_actuatorTypeOf {b : Byte} {t : ActuatorType} (h : actuatorTypeOf b = some t) : t.code = b := by
  simpa using List.find?_some h

theorem code_of_errorCodeOf {b : Byte} {t : ErrorCode} (h : errorCodeOf b = some t) : t.code = b := by
  simpa using List.find?_some h

theorem messageTypeOf_eq_none (b : Byte) : messageTypeOf b = none ↔ 0x07#8 < b := by
  revert b; decide

theorem sensorTypeOf_eq_none (b : Byte) : sensorTypeOf b = none ↔ 0x0B#8 < b := by
  revert b; decide

theorem actuatorTypeOf_eq_none (b : Byte) : actuatorTypeOf b = none ↔ 0x02#8 < b := by
  revert b; decide

theorem errorCodeOf_eq_none (b : Byte) : errorCodeOf b = none ↔ 0x06#8 < b := by
  revert b; decide

theorem MessageType.code_injective : Function.Injective MessageType.code := fun a b h => by
  simpa using congrArg messageTypeOf h

theorem SensorType.code_injective : Function.Injective SensorType.code := fun a b h => by
  simpa using congrArg sensorTypeOf h

theorem ActuatorType.code_injective : Function.Injective ActuatorType.code := fun a b h => by
  simpa using congrArg actuatorTypeOf h

theorem ErrorCode.code_injective : Function.Injective ErrorCode.code := fun a b h => by
  simpa using congrArg errorCodeOf h

end Sys2Proof
end

