-- ==== Sys2Proof/Laws/Codec.lean ====
section
/-! SUPPORT. What decoding and encoding a frame do, once: a frame decodes exactly where its bytes stand
(`decodeFrame_ok_iff`), and a wire record is a Message exactly where its error code is one. -/

namespace Sys2Proof

@[simp] theorem length_payloadBytes (p : Payload Byte) : (payloadBytes p).length = p.variant.size := by
  cases p <;> rfl

@[simp] theorem variant_readPayload (v : Variant) (rd : Nat → Byte) : (readPayload v rd).variant = v := by
  cases v <;> rfl

/-- Reading a payload loses nothing: its bytes are the bytes read (30_encoding.md R96, R104). -/
theorem payloadBytes_readPayload (v : Variant) (rd : Nat → Byte) :
    payloadBytes (readPayload v rd) = (List.range v.size).map fun o => rd (4 + o) := by
  cases v <;>
    simp [payloadBytes, readPayload, fieldI16, fieldI32, memRead16, memRead32, memRead64, split16, split32, split64,
      Variant.size, List.range_succ]

/-- Reading a payload looks at the bytes `[4, 4+size)` alone. -/
theorem readPayload_listed (v : Variant) (rd : Nat → Byte) :
    readPayload v rd =
      readPayload v fun o => ((List.range v.size).map fun o => rd (4 + o)).getD (o - 4) 0 := by
  cases v <;>
    simp [readPayload, fieldI16, fieldI32, memRead16, memRead32, memRead64, Variant.size, List.range_succ]

theorem readPayload_own (p : Payload Byte) :
    readPayload p.variant (fun o => (payloadBytes p).getD (o - 4) 0) = p := by
  cases p <;>
    simp [Payload.variant, readPayload, fieldI16, fieldI32, memRead16, memRead32, memRead64, payloadBytes, bytes16,
      bytes32, bytes64, join16, join32, join64]

/-- A payload is read back from its bytes (30_encoding.md R97, R98). -/
theorem readPayload_eq (p : Payload Byte) (rd : Nat → Byte)
    (h : ∀ o < p.variant.size, rd (4 + o) = (payloadBytes p).getD o 0) : readPayload p.variant rd = p := by
  have hl : ((List.range p.variant.size).map fun o => rd (4 + o)) = payloadBytes p :=
    List.ext_getElem (by simp) fun o h1 h2 => by
      have := h o (by simpa using h1)
      simpa [List.getD_eq_getElem?_getD, List.getElem?_eq_getElem h2] using this
  rw [readPayload_listed, hl, readPayload_own]

/-! ### Subtypes and wire records -/

theorem subtypeOf_ok_iff (t : MessageType) (b : Byte) (s : MsgSubtype) :
    subtypeOf t b = .ok s ↔ s.inSpace t = true ∧ s.code = b := by
  constructor
  · intro h
    cases t <;> simp only [subtypeOf] at h <;> split at h <;> rename_i e <;> cases h <;>
      first
      | exact ⟨rfl, code_of_sensorTypeOf e⟩
      | exact ⟨rfl, code_of_actuatorTypeOf e⟩
  · rintro ⟨hs, rfl⟩
    cases s <;> cases t <;> simp_all [subtypeOf, MsgSubtype.inSpace, MsgSubtype.code]

@[simp] theorem variant_toWire (p : Payload ErrorCode) : p.toWire.variant = p.variant := by cases p <;> rfl

@[simp] theorem ofWire_toWire_payload (p : Payload ErrorCode) : p.toWire.ofWire = some p := by
  cases p <;> simp [Payload.toWire, Payload.ofWire]

theorem toWire_of_ofWire_payload {p : Payload Byte} {q : Payload ErrorCode} (h : p.ofWire = some q) :
    q.toWire = p := by
  cases p <;> simp only [Payload.ofWire, Option.map_eq_some_iff, Option.some.injEq] at h
  case error b =>
    obtain ⟨c, hc, rfl⟩ := h
    simp [Payload.toWire, code_of_errorCodeOf hc]
  all_goals subst h; rfl

theorem ofWire_payload_eq_none {p : Payload Byte} :
    p.ofWire = none ↔ ∃ b, p = .error b ∧ 0x06#8 < b := by
  cases p <;> simp [Payload.ofWire, errorCodeOf_eq_none]

/-- A Message is read back from its wire record. -/
@[simp] theorem ofWire_toWire (m : Message) : m.toWire.ofWire = some m := by
  simp [MessageOf.toWire, MessageOf.ofWire]

/-- A wire record that stands for a Message is that Message's. -/
theorem toWire_of_ofWire {w : MessageOf Byte} {m : Message} (h : w.ofWire = some m) : m.toWire = w := by
  simp only [MessageOf.ofWire, Option.map_eq_some_iff] at h
  obtain ⟨p, hp, rfl⟩ := h
  simp [MessageOf.toWire, toWire_of_ofWire_payload hp]

@[simp] theorem wf_toWire (m : Message) : m.toWire.wf = m.wf := by simp [MessageOf.toWire, MessageOf.wf]

theorem wf_iff {ε : Type} (m : MessageOf ε) :
    m.wf = true ↔ m.subtype.inSpace m.type = true ∧ m.payload.variant = shape m.type m.subtype := by
  simp [MessageOf.wf]

/-- Header and payload are 4 + N bytes (30_encoding.md R90). -/
theorem length_body {m : MessageOf Byte} (h : m.wf = true) : m.body.length = 4 + payloadLen m.type m.subtype := by
  simp [MessageOf.body, payloadLen, ← ((wf_iff m).1 h).2]; omega

theorem length_bytes {f : WireFrame} (h : f.message.wf = true) :
    f.bytes.length = 5 + payloadLen f.message.type f.message.subtype := by
  simp [WireFrame.bytes, length_body h]; omega

/-! ### Decoding a frame -/

/-- Where a frame's bytes stand, it decodes to itself; and it decodes nowhere else. Steps 1 to 4 of DECODE, said once
(42_message_codec.md R185, 30_encoding.md R104). -/
theorem decodeFrame_ok_iff (len : Nat) (rd : Nat → Byte) (f : WireFrame) :
    decodeFrame len rd = .ok f ↔
      f.message.wf = true ∧ f.bytes.length ≤ len ∧ ∀ o < f.bytes.length, rd o = f.bytes.getD o 0 := by
  constructor
  · intro h
    unfold decodeFrame at h
    split at h
    · cases h
    split at h
    · cases h
    rename_i t ht
    split at h
    · cases h
    split at h
    · cases h
    rename_i s hs
    split at h
    · cases h
    split at h
    · cases h
    rename_i h1 h2 h4 h5
    cases h
    obtain ⟨hsp, hsc⟩ := (subtypeOf_ok_iff _ _ _).1 hs
    have hwf : MessageOf.wf (ε := Byte) ⟨t, s, rd 2, rd 3, readPayload (shape t s) rd⟩ = true :=
      (wf_iff _).2 ⟨hsp, variant_readPayload _ _⟩
    refine ⟨hwf, ?_, fun o ho => ?_⟩
    · rw [length_bytes hwf]
      show 5 + payloadLen t s ≤ len
      omega
    · rw [length_bytes hwf] at ho
      have ho : o < 5 + payloadLen t s := ho
      have hb : WireFrame.bytes ⟨⟨t, s, rd 2, rd 3, readPayload (shape t s) rd⟩, rd (4 + payloadLen t s)⟩ =
          [rd 0, rd 1, rd 2, rd 3] ++ ((List.range (payloadLen t s)).map fun o => rd (4 + o)) ++
            [rd (4 + payloadLen t s)] := by
        simp only [WireFrame.bytes, MessageOf.body, payloadBytes_readPayload, payloadLen, hsc,
          code_of_messageTypeOf ht]
      rw [hb]
      rcases Nat.lt_or_ge o 4 with hlt | hge
      · interval_cases o <;> simp
      · rcases Nat.lt_or_ge o (4 + payloadLen t s) with hlt' | hge'
        · obtain ⟨k, rfl⟩ : ∃ k, o = 4 + k := ⟨o - 4, by omega⟩
          have hk : k < payloadLen t s := by omega
          simp [List.getElem?_append, hk, show 4 + k = k + 4 by omega]
        · obtain rfl : o = 4 + payloadLen t s := by omega
          simp [show 4 + payloadLen t s = payloadLen t s + 4 by omega]
  · rintro ⟨hwf, hlen, h⟩
    obtain ⟨⟨t, s, id, q, p⟩, c⟩ := f
    obtain ⟨hsp, hv⟩ := (wf_iff _).1 hwf
    rw [length_bytes hwf] at hlen h
    simp only at hsp hv hlen h
    have hlen : 5 + payloadLen t s ≤ len := hlen
    have h : ∀ o < 5 + payloadLen t s, rd o = (WireFrame.bytes ⟨⟨t, s, id, q, p⟩, c⟩).getD o 0 := h
    have h0 : rd 0 = t.code := by rw [h 0 (by omega)]; rfl
    have h1 : rd 1 = s.code := by rw [h 1 (by omega)]; rfl
    have h2 : rd 2 = id := by rw [h 2 (by omega)]; rfl
    have h3 : rd 3 = q := by rw [h 3 (by omega)]; rfl
    have hN : payloadLen t s = p.variant.size := by rw [payloadLen, ← hv]
    have hp : readPayload (shape t s) rd = p := by
      rw [← hv]
      refine readPayload_eq p rd fun o ho => ?_
      rw [h (4 + o) (by omega)]
      simp [WireFrame.bytes, MessageOf.body, show 4 + o = o + 4 by omega, List.getElem?_append, ho]
    have hc : rd (4 + payloadLen t s) = c := by
      rw [h _ (by omega), hN]
      simp [WireFrame.bytes, MessageOf.body, show 4 + p.variant.size = p.variant.size + 4 by omega]
    have hst : subtypeOf t s.code = .ok s := (subtypeOf_ok_iff _ _ _).2 ⟨hsp, rfl⟩
    unfold decodeFrame
    simp only [h0, h1, h2, h3, hp, hc, messageTypeOf_code, hst]
    rw [if_neg (by omega), if_neg (by omega), if_neg (by omega), if_neg (by omega)]

/-- Decoding a frame looks at the bytes below `len` alone (20_memory.md R57). -/
theorem decodeFrame_congr {len : Nat} {rd rd' : Nat → Byte} (h : ∀ o < len, rd o = rd' o) :
    decodeFrame len rd = decodeFrame len rd' := by
  unfold decodeFrame
  split
  · rfl
  rw [h 0 (by omega)]
  split
  · rfl
  split
  · rfl
  rw [h 1 (by omega)]
  split
  · rfl
  split
  · rfl
  split
  · rfl
  rename_i t _ _ _ s _ _ _
  have hp : readPayload (shape t s) rd = readPayload (shape t s) rd' := by
    rw [readPayload_listed _ rd, readPayload_listed _ rd',
      List.map_congr_left fun o ho => h (4 + o) (by unfold payloadLen at *; simp at ho; omega)]
  rw [h 2 (by omega), h 3 (by omega), h (4 + payloadLen t s) (by omega), hp]

/-- No check before the trailer answers `OK` as an error. -/
theorem decodeFrame_ne_error_ok (len : Nat) (rd : Nat → Byte) : decodeFrame len rd ≠ .error .ok := by
  have hs : ∀ t b, subtypeOf t b ≠ .error .ok := by
    intro t b h
    cases t <;> simp only [subtypeOf] at h <;> split at h <;> cases h
  intro h
  unfold decodeFrame at h
  split at h
  · cases h
  split at h
  · cases h
  split at h
  · cases h
  split at h
  · rename_i he; cases h; exact hs _ _ he
  split at h
  · cases h
  split at h <;> cases h

/-! ### Frames as instructions -/

theorem parts_of_sensorDataInstr {i : Instr} {s : SensorType} {id q c : Byte} {p : Payload Byte}
    (h : sensorDataInstr s id q p c = some i) : i.parts = .inr ⟨⟨.sensorData, .sensor s, id, q, p⟩, c⟩ := by
  cases p <;> simp only [sensorDataInstr, reduceCtorEq] at h <;> (repeat' split at h) <;> cases h <;> subst s <;> rfl

/-- The row a frame is in stands for that frame. -/
theorem parts_of_toInstr {i : Instr} {f : WireFrame} (h : f.toInstr = some i) : i.parts = .inr f := by
  obtain ⟨⟨t, s, id, q, p⟩, c⟩ := f
  unfold WireFrame.toInstr at h
  dsimp only at h
  split at h <;> split at h <;>
    first
    | exact parts_of_sensorDataInstr h
    | (cases h; done)
    | (cases h; rfl)

theorem frame?_eq_some {i : Instr} {f : WireFrame} : i.frame? = some f ↔ i.parts = .inr f := by
  unfold Instr.frame?
  split <;> simp_all

/-- A frame-kind row's frame is in that row. -/
theorem toInstr_of_frame? {i : Instr} {f : WireFrame} (h : i.frame? = some f) : f.toInstr = some i := by
  cases i <;> simp only [Instr.frame?, Instr.parts, reduceCtorEq, Option.some.injEq] at h <;> subst h <;> rfl

end Sys2Proof
end

