-- ==== Sys2Proof/Laws/Memory.lean ====
section
/-! SUPPORT. The laws of the caller's storage: a read after a write to the same place gives the byte written, a write
leaves every other place alone, and every operation keeps the canonical form. -/

namespace Sys2Proof.Machine

@[simp] theorem Memory.read_nil (x : Nat) : Memory.read [] x = 0 := rfl

@[simp] theorem Memory.read_cons (a x : Nat) (b : Byte) (m : Memory) :
    Memory.read ((a, b) :: m) x = if x = a then b else Memory.read m x := rfl

theorem Memory.read_without (m : Memory) (x y : Nat) :
    Memory.read (Memory.without m x) y = if y = x then 0 else Memory.read m y := by
  induction m with
  | nil => simp [Memory.without]
  | cons c m ih =>
    obtain ⟨a, b⟩ := c
    have ih' : Memory.read (List.filter (fun c => c.1 != x) m) y = if y = x then 0 else Memory.read m y := ih
    by_cases h : a = x
    · subst h
      simp only [Memory.without, List.filter_cons, bne_self_eq_false, Bool.false_eq_true, if_false, ih',
        Memory.read_cons]
      split <;> simp_all
    · simp only [Memory.without, List.filter_cons, bne_iff_ne, ne_eq, h, not_false_eq_true, if_true, ih',
        Memory.read_cons]
      by_cases hy : y = a
      · simp [hy, h]
      · simp [hy]

theorem Memory.read_insert (x y : Nat) (v : Byte) (m : Memory) (h : ∀ c ∈ m, c.1 ≠ x) :
    Memory.read (Memory.insert x v m) y = if y = x then v else Memory.read m y := by
  induction m with
  | nil => simp [Memory.insert]
  | cons c m ih =>
    obtain ⟨a, b⟩ := c
    have ha : a ≠ x := h (a, b) (by simp)
    have ih' := ih fun c hc => h c (by simp [hc])
    simp only [Memory.insert]
    split
    · simp
    · simp only [Memory.read_cons, ih']
      by_cases hy : y = a
      · simp [hy, ha]
      · simp [hy]

theorem Memory.mem_without {m : Memory} {x : Nat} {c : Host.Cell} :
    c ∈ Memory.without m x ↔ c ∈ m ∧ c.1 ≠ x := by simp [Memory.without]

/-- The one law of a byte write. -/
@[simp] theorem Memory.read_write (m : Memory) (x y : Nat) (v : Byte) :
    Memory.read (Memory.write m x v) y = if y = x then v else Memory.read m y := by
  unfold Memory.write
  split
  · rename_i h; simp [Memory.read_without, h]
  · rw [Memory.read_insert x y v _ fun c hc => (Memory.mem_without.1 hc).2]
    by_cases hy : y = x <;> simp [hy, Memory.read_without]

theorem Memory.wf_without {m : Memory} (h : Memory.wf m) (x : Nat) : Memory.wf (Memory.without m x) :=
  ⟨h.1.filter _, fun c hc => h.2 c (Memory.mem_without.1 hc).1⟩

theorem Memory.mem_insert {x : Nat} {v : Byte} {m : Memory} {c : Host.Cell} :
    c ∈ Memory.insert x v m ↔ c = (x, v) ∨ c ∈ m := by
  induction m with
  | nil => simp [Memory.insert]
  | cons d m ih =>
    obtain ⟨a, b⟩ := d
    simp only [Memory.insert]
    split
    · simp
    · simp only [List.mem_cons, ih]; tauto

theorem Memory.wf_insert {m : Memory} {x : Nat} {v : Byte} (hv : v ≠ 0) (h : Memory.wf m) (hx : ∀ c ∈ m, c.1 ≠ x) :
    Memory.wf (Memory.insert x v m) := by
  induction m with
  | nil => exact ⟨by simp [Memory.insert], by simpa [Memory.insert] using hv⟩
  | cons d m ih =>
    obtain ⟨a, b⟩ := d
    have hp := List.pairwise_cons.1 h.1
    have hax : a ≠ x := hx (a, b) (by simp)
    simp only [Memory.insert]
    split
    · rename_i hlt
      refine ⟨List.pairwise_cons.2 ⟨fun c hc => ?_, h.1⟩, fun c hc => ?_⟩
      · rcases List.mem_cons.1 hc with rfl | hc
        · exact hlt
        · exact Nat.lt_trans hlt (hp.1 c hc)
      · rcases List.mem_cons.1 hc with rfl | hc
        · exact hv
        · exact h.2 c hc
    · rename_i hlt
      have ih' := ih ⟨hp.2, fun c hc => h.2 c (by simp [hc])⟩ fun c hc => hx c (by simp [hc])
      refine ⟨List.pairwise_cons.2 ⟨fun c hc => ?_, ih'.1⟩, fun c hc => ?_⟩
      · rcases Memory.mem_insert.1 hc with rfl | hc
        · show a < x
          omega
        · exact hp.1 c hc
      · rcases List.mem_cons.1 hc with rfl | hc
        · exact h.2 _ (by simp)
        · exact ih'.2 c hc

/-- A byte write keeps the canonical form. -/
theorem Memory.wf_write {m : Memory} (h : Memory.wf m) (x : Nat) (v : Byte) : Memory.wf (Memory.write m x v) := by
  unfold Memory.write
  split
  · exact Memory.wf_without h x
  · rename_i hv
    exact Memory.wf_insert hv (Memory.wf_without h x) fun c hc => (Memory.mem_without.1 hc).2

/-- A write of bytes keeps the canonical form. -/
theorem Memory.wf_writeBytes {m : Memory} (h : Memory.wf m) (x : Nat) (bs : List Byte) :
    Memory.wf (Memory.writeBytes m x bs) := by
  induction bs generalizing m x with
  | nil => exact h
  | cons b bs ih => exact ih (Memory.wf_write h x b) (x + 1)

/-- The one law of a write of bytes: the bytes written inside the range, what was there outside. -/
theorem Memory.read_writeBytes (m : Memory) (x y : Nat) (bs : List Byte) :
    Memory.read (Memory.writeBytes m x bs) y =
      if x ≤ y ∧ y < x + bs.length then bs.getD (y - x) 0 else Memory.read m y := by
  induction bs generalizing m x with
  | nil => simp [Memory.writeBytes]
  | cons b bs ih =>
    simp only [Memory.writeBytes, ih, Memory.read_write, List.length_cons]
    by_cases h0 : y = x
    · subst h0
      simp
    · by_cases h1 : x + 1 ≤ y ∧ y < x + 1 + bs.length
      · have h2 : x ≤ y ∧ y < x + (bs.length + 1) := by omega
        obtain ⟨k, hk⟩ : ∃ k, y - x = k + 1 := ⟨y - x - 1, by omega⟩
        have hk' : y - (x + 1) = k := by omega
        simp [h1, h2, hk, hk']
      · have h2 : ¬(x ≤ y ∧ y < x + (bs.length + 1)) := by omega
        rw [if_neg h1, if_neg h0, if_neg h2]

/-- Canonical memories with the same bytes are the same data. -/
theorem Memory.ext_of_wf {m n : Memory} (hm : Memory.wf m) (hn : Memory.wf n)
    (h : ∀ x, Memory.read m x = Memory.read n x) : m = n := by
  have low : ∀ {a : Nat} {b : Byte} {m : Memory}, Memory.wf ((a, b) :: m) → ∀ x ≤ a,
      Memory.read m x = 0 := by
    intro a b m hw x hx
    have hp := (List.pairwise_cons.1 hw.1).1
    clear hw
    induction m with
    | nil => rfl
    | cons d m ih =>
      obtain ⟨c, e⟩ := d
      have hc : a < c := hp (c, e) (by simp)
      simp only [Memory.read_cons, show x ≠ c by omega, if_false]
      exact ih fun f hf => hp f (by simp [hf])
  induction m generalizing n with
  | nil =>
    cases n with
    | nil => rfl
    | cons d n =>
      obtain ⟨a, b⟩ := d
      have := h a
      simp at this
      exact absurd this.symm (hn.2 (a, b) (by simp))
  | cons d m ih =>
    obtain ⟨a, b⟩ := d
    have hb := hm.2 (a, b) (by simp)
    cases n with
    | nil =>
      have := h a
      simp at this
      exact absurd this hb
    | cons e n =>
      obtain ⟨c, f⟩ := e
      have hf := hn.2 (c, f) (by simp)
      have ha : a = c := by
        rcases Nat.lt_trichotomy a c with hlt | heq | hgt
        · have h1 := h a
          have hz := low hn a (Nat.le_of_lt hlt)
          simp only [Memory.read_cons, if_true, show a ≠ c by omega, if_false, hz] at h1
          exact absurd h1 hb
        · exact heq
        · have h1 := h c
          have hz := low hm c (Nat.le_of_lt hgt)
          simp only [Memory.read_cons, if_true, show c ≠ a by omega, if_false, hz] at h1
          exact absurd h1.symm hf
      subst ha
      have hbf : b = f := by simpa using h a
      subst hbf
      have hmn : m = n := by
        refine ih ⟨(List.pairwise_cons.1 hm.1).2, fun c hc => hm.2 c (by simp [hc])⟩
          ⟨(List.pairwise_cons.1 hn.1).2, fun c hc => hn.2 c (by simp [hc])⟩ fun x => ?_
        by_cases hx : x = a
        · subst hx; rw [low hm x le_rfl, low hn x le_rfl]
        · have := h x; simpa [hx] using this
      rw [hmn]

end Sys2Proof.Machine
end

