-- ==== Sys2Proof/Laws/State.lean ====
section
/-! SUPPORT. What each field of the state is after each update, by definition. -/

namespace Sys2Proof.Machine

section
variable (s : State) (r : Response) (q : Request) (view : View) (off x : Nat) (b : Byte) (bs : List Byte)
  (i : Instr) (m : MessageOf Byte)

@[simp] theorem reply_req : (s.reply r).req = s.req := rfl
@[simp] theorem reply_rsp : (s.reply r).rsp = r := rfl
@[simp] theorem reply_mem : (s.reply r).mem = s.mem := rfl
@[simp] theorem reply_running : (s.reply r).running = s.running := rfl
@[simp] theorem reply_writing : (s.reply r).writing = s.writing := rfl
@[simp] theorem reply_program : (s.reply r).program = s.program := rfl
@[simp] theorem reply_draws : (s.reply r).draws = s.draws := rfl

@[simp] theorem issue_req : (s.issue q).req = some q := rfl
@[simp] theorem issue_rsp : (s.issue q).rsp = s.rsp := rfl
@[simp] theorem issue_mem : (s.issue q).mem = s.mem := rfl
@[simp] theorem issue_running : (s.issue q).running = s.running := rfl
@[simp] theorem issue_writing : (s.issue q).writing = s.writing := rfl
@[simp] theorem issue_program : (s.issue q).program = s.program := rfl
@[simp] theorem issue_draws : (s.issue q).draws = s.draws := rfl

@[simp] theorem storeBytes_req : (s.storeBytes view off bs).req = s.req := rfl
@[simp] theorem storeBytes_rsp : (s.storeBytes view off bs).rsp = s.rsp := rfl
@[simp] theorem storeBytes_mem :
    (s.storeBytes view off bs).mem = Memory.writeBytes s.mem (view.base + off) bs := rfl
@[simp] theorem storeBytes_running : (s.storeBytes view off bs).running = s.running := rfl
@[simp] theorem storeBytes_writing : (s.storeBytes view off bs).writing = s.writing := rfl
@[simp] theorem storeBytes_program : (s.storeBytes view off bs).program = s.program := rfl
@[simp] theorem storeBytes_draws : (s.storeBytes view off bs).draws = s.draws := rfl

@[simp] theorem release_req : s.release.req = none := rfl
@[simp] theorem release_rsp : s.release.rsp = s.rsp := rfl
@[simp] theorem release_mem : s.release.mem = s.mem := rfl
@[simp] theorem release_running : s.release.running = s.running := rfl
@[simp] theorem release_writing : s.release.writing = s.writing := rfl
@[simp] theorem release_program : s.release.program = s.program := rfl
@[simp] theorem release_draws : s.release.draws = s.draws := rfl

@[simp] theorem resetRegisters_req : s.resetRegisters.req = none := rfl
@[simp] theorem resetRegisters_rsp : s.resetRegisters.rsp = {} := rfl
@[simp] theorem resetRegisters_mem : s.resetRegisters.mem = s.mem := rfl
@[simp] theorem resetRegisters_running : s.resetRegisters.running = s.running := rfl
@[simp] theorem resetRegisters_writing : s.resetRegisters.writing = s.writing := rfl
@[simp] theorem resetRegisters_program : s.resetRegisters.program = s.program := rfl
@[simp] theorem resetRegisters_draws : s.resetRegisters.draws = s.draws := rfl

@[simp] theorem callerStore_req : (s.callerStore x b).req = s.req := rfl
@[simp] theorem callerStore_rsp : (s.callerStore x b).rsp = s.rsp := rfl
@[simp] theorem callerStore_mem : (s.callerStore x b).mem = Memory.write s.mem x b := rfl
@[simp] theorem callerStore_running : (s.callerStore x b).running = s.running := rfl
@[simp] theorem callerStore_writing : (s.callerStore x b).writing = s.writing := rfl
@[simp] theorem callerStore_program : (s.callerStore x b).program = s.program := rfl
@[simp] theorem callerStore_draws : (s.callerStore x b).draws = s.draws := rfl


@[simp] theorem setOthers_req (vs ws : List View) : (s.setOthers vs ws).req = s.req := rfl
@[simp] theorem setOthers_rsp (vs ws : List View) : (s.setOthers vs ws).rsp = s.rsp := rfl
@[simp] theorem setOthers_mem (vs ws : List View) : (s.setOthers vs ws).mem = s.mem := rfl
@[simp] theorem setOthers_running (vs ws : List View) : (s.setOthers vs ws).running = vs := rfl
@[simp] theorem setOthers_writing (vs ws : List View) : (s.setOthers vs ws).writing = ws := rfl
@[simp] theorem setOthers_program (vs ws : List View) : (s.setOthers vs ws).program = s.program := rfl
@[simp] theorem setOthers_draws (vs ws : List View) : (s.setOthers vs ws).draws = s.draws := rfl

@[simp] theorem cutShort_req : (cutShort i s).req = none := rfl
@[simp] theorem cutShort_rsp : (cutShort i s).rsp = {} := rfl
@[simp] theorem cutShort_mem : (cutShort i s).mem =
    Memory.writeBytes s.mem (plannedWrites i).1 ((plannedWrites i).2.take (Config.resetPrefix s.draws)) := rfl
@[simp] theorem cutShort_running : (cutShort i s).running = s.running := rfl
@[simp] theorem cutShort_writing : (cutShort i s).writing = s.writing := rfl
@[simp] theorem cutShort_program : (cutShort i s).program = s.program := rfl
@[simp] theorem cutShort_draws : (cutShort i s).draws = s.draws + 1 := rfl

@[simp] theorem deliver_req : (s.deliver m b).req = s.req := rfl
@[simp] theorem deliver_rsp : (s.deliver m b).rsp = frameResponse Config.crc8Table ⟨m, b⟩ := rfl
@[simp] theorem deliver_mem : (s.deliver m b).mem = s.mem := rfl
@[simp] theorem deliver_running : (s.deliver m b).running = s.running := rfl
@[simp] theorem deliver_writing : (s.deliver m b).writing = s.writing := rfl
@[simp] theorem deliver_program : (s.deliver m b).program = s.program := rfl
@[simp] theorem deliver_draws : (s.deliver m b).draws = s.draws := rfl

@[simp] theorem byteAt_reply (o : Nat) : (s.reply r).byteAt view o = s.byteAt view o := rfl
@[simp] theorem byteAt_release (o : Nat) : s.release.byteAt view o = s.byteAt view o := rfl
@[simp] theorem byteAt_issue (o : Nat) : (s.issue q).byteAt view o = s.byteAt view o := rfl

end

end Sys2Proof.Machine
end

