-- ==== Sys2Proof/Laws/Exec.lean ====
section
/-! SUPPORT. What each shared operation can do, said once: the guard, a write to a view, a frame's response, a whole
instruction (`exec_next`) and a step (`step_next`). Claims cite these instead of unfolding the meanings. -/

namespace Sys2Proof.Machine

/-- The guard runs exactly the transactions in range. -/
@[simp] theorem guarded_eq_next {view : View} {off n : Nat} {k t : State} :
    guarded view off n k = .next t ↔ off + n ≤ view.len ∧ t = k := by
  unfold guarded inRange
  by_cases h : off + n ≤ view.len
  · simp [h, eq_comm]
  · simp [h]

theorem guarded_of_le {view : View} {off n : Nat} (k : State) (h : off + n ≤ view.len) :
    guarded view off n k = .next k := guarded_eq_next.2 ⟨h, rfl⟩

theorem guarded_of_not_le {view : View} {off n : Nat} (k : State) (h : ¬off + n ≤ view.len) :
    guarded view off n k = .fault .range := by simp [guarded, inRange, h]

/-- A view after a write of bytes to it. -/
theorem byteAt_storeBytes (s : State) (view : View) (off o : Nat) (bs : List Byte) :
    (s.storeBytes view off bs).byteAt view o =
      if off ≤ o ∧ o < off + bs.length then bs.getD (o - off) 0 else s.byteAt view o := by
  simp only [State.byteAt, storeBytes_mem, Memory.read_writeBytes]
  by_cases h : off ≤ o ∧ o < off + bs.length
  · rw [if_pos h, if_pos (by omega), show view.base + o - (view.base + off) = o - off by omega]
  · rw [if_neg h, if_neg (by omega)]

@[simp] theorem length_bytesAt (s : State) (view : View) (off n : Nat) : (s.bytesAt view off n).length = n := by
  simp [State.bytesAt]

/-- ENCODE's frame is 5 + N bytes (42_message_codec.md R177). -/
theorem length_frameBytes (table : Byte → Byte) {m : Message} (h : m.wf = true) :
    (frameBytes table m).length = 5 + payloadLen m.type m.subtype := by
  rw [frameBytes, List.length_append, length_body (by simpa using h)]
  show 4 + payloadLen m.type m.subtype + 1 = _
  omega

theorem frameBytes_eq_bytes (table : Byte → Byte) (m : Message) :
    frameBytes table m = WireFrame.bytes ⟨m.toWire, crc8Of table m.toWire.body⟩ := rfl

theorem Sound_okCount (n : Nat) : (okCount n).Sound := ⟨by simp [okCount], by simp [okCount], .inl rfl⟩
theorem Sound_okValue (v : BitVec 64) : (okValue v).Sound := ⟨by simp [okValue], by simp [okValue], .inr rfl⟩
theorem Sound_empty : Response.Sound {} := ⟨by simp, by simp, .inl rfl⟩

theorem Sound_raised {st : Status} : (raised st).Sound := ⟨by simp [raised], by simp [raised], .inl rfl⟩

/-- Where a frame's record is well-formed, so is a Message it delivers. -/
theorem Sound_frameResponse (table : Byte → Byte) (f : WireFrame) (h : f.message.wf = true) :
    (frameResponse table f).Sound := by
  unfold frameResponse
  split
  · split
    · rename_i m hm
      have hw := toWire_of_ofWire hm
      have ht : m.type = f.message.type := by rw [← hw]; rfl
      have hs : m.subtype = f.message.subtype := by rw [← hw]; rfl
      have hwf : m.wf = true := by rw [← wf_toWire, hw]; exact h
      refine ⟨by simp [okMessage], fun m' h' => ?_, .inl rfl⟩
      obtain rfl : m = m' := by simpa [okMessage] using h'
      refine ⟨hwf, ?_⟩
      simp only [okMessage, Option.some.injEq, frameLen, ht, hs]
      omega
    · exact Sound_raised
  · exact Sound_raised

theorem Sound_decodeResponse (table : Byte → Byte) (len : Nat) (rd : Nat → Byte) :
    (decodeResponse table len rd).Sound := by
  unfold decodeResponse
  split
  · exact Sound_raised
  · rename_i f hf
    exact Sound_frameResponse table f ((decodeFrame_ok_iff _ _ _).1 hf).1

/-- DECODE where the frame of a Message stands at the start of the bytes: that Message, and the frame's length. -/
theorem decodeResponse_frameBytes (table : Byte → Byte) (m : Message) (len : Nat) (rd : Nat → Byte) (hw : m.wf = true)
    (hl : 5 + payloadLen m.type m.subtype ≤ len)
    (hb : ∀ o < 5 + payloadLen m.type m.subtype, rd o = (frameBytes table m).getD o 0) :
    decodeResponse table len rd = okMessage m (5 + payloadLen m.type m.subtype) := by
  have hd : decodeFrame len rd = .ok ⟨m.toWire, crc8Of table m.toWire.body⟩ := by
    refine (decodeFrame_ok_iff _ _ _).2 ⟨by simpa using hw, ?_, ?_⟩ <;>
      rw [← frameBytes_eq_bytes, length_frameBytes _ hw]
    exacts [hl, hb]
  simp only [decodeResponse, hd, frameResponse, if_true, ofWire_toWire]
  rfl

/-- DECODE looks at the bytes of the view alone. -/
theorem decodeResponse_congr (table : Byte → Byte) {len : Nat} {rd rd' : Nat → Byte} (h : ∀ o < len, rd o = rd' o) :
    decodeResponse table len rd = decodeResponse table len rd' := by
  rw [decodeResponse, decodeResponse, decodeFrame_congr h]

/-- Everything behind a status `OK`: a well-formed Message whose frame, trailer included, stands at the start of the
bytes. The converse is `decodeResponse_frameBytes`. -/
theorem decodeResponse_ok {table : Byte → Byte} {len : Nat} {rd : Nat → Byte}
    (h : (decodeResponse table len rd).status = some .ok) :
    ∃ m : Message, m.wf = true ∧ 5 + payloadLen m.type m.subtype ≤ len ∧
      (∀ o < 5 + payloadLen m.type m.subtype, rd o = (frameBytes table m).getD o 0) ∧
      decodeResponse table len rd = okMessage m (5 + payloadLen m.type m.subtype) := by
  unfold decodeResponse at h ⊢
  split at h
  · rename_i e he
    rw [show e = .ok by simpa [raised] using h] at he
    exact (decodeFrame_ne_error_ok _ _ he).elim
  rename_i f hf
  simp only [frameResponse] at h ⊢
  split at h
  · rename_i hc
    split at h
    · rename_i m hm
      have hw := toWire_of_ofWire hm
      obtain ⟨fm, c⟩ := f
      dsimp only at hw hc
      subst hw hc
      obtain ⟨hwf, hl, hb⟩ := (decodeFrame_ok_iff _ _ _).1 hf
      have hwf : m.wf = true := by simpa using hwf
      rw [← frameBytes_eq_bytes, length_frameBytes _ hwf] at hl hb
      exact ⟨m, hwf, hl, hb, if_pos rfl⟩
    · simp [raised] at h
  · simp [raised] at h

/-- What is taken in: a request that selects an operation, on a view no one else uses. -/
theorem accept_eq_ok {s : State} {r : Request} {i : Instr} :
    s.accept r = .ok i ↔ decodeRequest r = .ok i ∧ s.viewShared r.view = false := by
  unfold State.accept
  split
  · rename_i e he; simp [he]
  · rename_i j hj; cases hs : s.viewShared r.view <;> simp [hj]

/-- Two views meet where they share an address. -/
theorem viewsMeet_iff (v w : View) : viewsMeet v w = true ↔ v.shares w := by
  simp only [viewsMeet, decide_eq_true_eq]
  constructor
  · intro h; exact ⟨max v.base w.base, by omega, by omega, by omega, by omega⟩
  · rintro ⟨a, h⟩; omega

theorem viewShared_iff (s : State) (view : View) :
    s.viewShared view = true ↔ ∃ v ∈ s.running ++ s.writing, view.shares v := by
  simp only [State.viewShared, List.any_eq_true, viewsMeet_iff]

theorem dutiesKept_iff (running writing : List View) : dutiesKept running writing = true ↔ Duties running writing := by
  simp only [dutiesKept, Duties, Bool.and_eq_true, decide_eq_true_eq, List.all_eq_true, Bool.not_eq_true',
    ← Bool.not_eq_true, viewsMeet_iff]

/-- A store goes on exactly where no running transaction's view holds its address. -/
theorem afterStore_eq_next {s t : State} {x : Nat} {b : Byte} : s.afterStore x b = .next t ↔
    (∀ v ∈ s.running, ¬(v.base ≤ x ∧ x < v.base + v.len)) ∧ t = s.callerStore x b := by
  have hm : s.running.any (viewsMeet ⟨x, 1⟩) = true ↔ ∃ v ∈ s.running, v.base ≤ x ∧ x < v.base + v.len := by
    simp only [List.any_eq_true, viewsMeet, decide_eq_true_eq]
    refine exists_congr fun v => and_congr_right fun _ => ?_
    omega
  unfold State.afterStore
  split
  · rename_i h
    obtain ⟨v, hv, hx⟩ := hm.1 h
    simp only [reduceCtorEq, false_iff]
    exact fun hn => hn.1 v hv hx
  · rename_i h
    rw [Host.Outcome.next.injEq, eq_comm, iff_and_self]
    exact fun _ v hv hx => h (hm.2 ⟨v, hv, hx⟩)

/-- A change of the ranges in use goes on exactly where it keeps both duties. -/
theorem afterOthers_eq_next {s t : State} {vs ws : List View} : s.afterOthers vs ws = .next t ↔
    dutiesKept vs ws = true ∧ t = s.setOthers vs ws := by
  unfold State.afterOthers
  cases dutiesKept vs ws <;> simp [eq_comm]

/-- A frame-kind row is a well-formed record (30_encoding.md R95). -/
theorem wf_of_frame? {i : Instr} {f : WireFrame} (h : i.frame? = some f) : f.message.wf = true := by
  cases i <;> simp only [Instr.frame?, Instr.parts, reduceCtorEq, Option.some.injEq] at h <;> subst h <;> rfl

/-- What a frame-kind row does (log entry 5). -/
theorem exec_frame? {i : Instr} {f : WireFrame} (h : i.frame? = some f) (s : State) :
    exec i s = .next (s.reply (frameResponse Config.crc8Table f)) := by
  cases i <;> simp only [Instr.frame?, Instr.parts, reduceCtorEq, Option.some.injEq] at h <;> subst h <;> rfl

/-- What ENCODE can do. -/
theorem execEncode_eq_next {msg : Message} {view : View} {s t : State} :
    execEncode msg view s = .next t ↔ msg.wf = true ∧ 22 ≤ view.len ∧
      t = (s.storeBytes view 0 (frameBytes Config.crc8Table msg)).reply
        (okCount (5 + payloadLen msg.type msg.subtype)) := by
  unfold execEncode
  by_cases h : msg.wf = true
  · by_cases h' : view.len < 22
    · simp [h, h', show ¬22 ≤ view.len by omega]
    · simp [h, h', show 22 ≤ view.len by omega, eq_comm]
  · simp [h]

/-- Everything an instruction can do: it writes its planned bytes and a response, and changes nothing else. -/
theorem exec_next {i : Instr} {s t : State} (h : exec i s = .next t) :
    t = { s with
          mem := Memory.writeBytes s.mem (plannedWrites i).1 (plannedWrites i).2
          rsp := t.rsp } ∧ t.rsp.Sound := by
  cases hf : i.frame? with
  | some f =>
    rw [exec_frame? hf, Host.Outcome.next.injEq] at h
    subst h
    refine ⟨?_, Sound_frameResponse _ _ (wf_of_frame? hf)⟩
    have : (plannedWrites i).2 = [] := by
      cases i <;> first | rfl | simp [Instr.frame?, Instr.parts] at hf
    rw [this]; rfl
  | none =>
    cases i <;> simp only [Instr.frame?, Instr.parts, reduceCtorEq] at hf
    case write16 v off view =>
      obtain ⟨-, rfl⟩ := guarded_eq_next.1 h
      exact ⟨rfl, Sound_okCount 2⟩
    case write32 v off view =>
      obtain ⟨-, rfl⟩ := guarded_eq_next.1 h
      exact ⟨rfl, Sound_okCount 4⟩
    case write64 v off view =>
      obtain ⟨-, rfl⟩ := guarded_eq_next.1 h
      exact ⟨rfl, Sound_okCount 8⟩
    case read16 off view =>
      obtain ⟨-, rfl⟩ := guarded_eq_next.1 h
      exact ⟨rfl, Sound_okValue _⟩
    case read32 off view =>
      obtain ⟨-, rfl⟩ := guarded_eq_next.1 h
      exact ⟨rfl, Sound_okValue _⟩
    case read64 off view =>
      obtain ⟨-, rfl⟩ := guarded_eq_next.1 h
      exact ⟨rfl, Sound_okValue _⟩
    case crc8 off n view =>
      obtain ⟨-, rfl⟩ := guarded_eq_next.1 h
      exact ⟨rfl, Sound_okValue _⟩
    case encode msg view =>
      obtain ⟨-, -, rfl⟩ := execEncode_eq_next.1 h
      exact ⟨rfl, Sound_okCount _⟩
    case decode view =>
      cases h
      exact ⟨rfl, Sound_decodeResponse _ _ _⟩

/-- A transaction returns exactly where its instruction completes, with nothing of the request kept. -/
theorem returned_eq_next {o : Host.Outcome State Fault Refusal} {t : State} :
    returned o = .next t ↔ ∃ t', o = .next t' ∧ t = t'.release := by
  cases o <;> simp [returned, eq_comm]

/-- Everything a step can do when it goes on. -/
theorem step_next {s t : State} (h : step s = .next t) :
    s.program = [] ∧ t = s ∨
    ∃ e rest, s.program = e :: rest ∧
      ((∃ r i t', e = .request r ∧ exec i (State.issue { s with program := rest } r) = .next t' ∧ t = t'.release) ∨
       (∃ reg, e = .read reg ∧ t = { s with program := rest }) ∨
       (∃ x b, e = .store x b ∧ t = State.callerStore { s with program := rest } x b) ∨
       (∃ vs ws, e = .others vs ws ∧ dutiesKept vs ws = true ∧ t = State.setOthers { s with program := rest } vs ws) ∨
       (e = .reset ∧ t = State.resetRegisters { s with program := rest }) ∨
       (∃ r i, e = .cutByReset r ∧ t = cutShort i (State.issue { s with program := rest } r))) := by
  unfold step at h
  split at h
  · rename_i hp; cases h; exact .inl ⟨hp, rfl⟩
  rename_i e rest hp
  refine .inr ⟨e, rest, hp, ?_⟩
  cases e with
  | request r =>
    simp only [runEvent, runRequest] at h
    split at h
    · cases h
    · rename_i i _
      obtain ⟨t', ht', rfl⟩ := returned_eq_next.1 h
      exact .inl ⟨r, i, t', rfl, ht', rfl⟩
  | read reg =>
    simp only [runEvent, State.afterRead] at h
    split at h <;> cases h
    exact .inr (.inl ⟨reg, rfl, rfl⟩)
  | store x b => exact .inr (.inr (.inl ⟨x, b, rfl, (afterStore_eq_next.1 h).2⟩))
  | others vs ws => exact .inr (.inr (.inr (.inl ⟨vs, ws, rfl, afterOthers_eq_next.1 h⟩)))
  | reset => cases h; exact .inr (.inr (.inr (.inr (.inl ⟨rfl, rfl⟩))))
  | cutByReset r =>
    simp only [runEvent, runCut] at h
    split at h
    · cases h
    rename_i i _
    simp only [cutOutcome] at h
    split at h <;> cases h
    exact .inr (.inr (.inr (.inr (.inr ⟨r, i, rfl, rfl⟩))))

end Sys2Proof.Machine
end

