-- ==== Sys2Proof/Laws/PerInstr.lean ====
section
/-! SUPPORT. A statement per instruction, about its encoding alone: the first word of its encoding has the fixed bits
spec/opcode_table.json gives its row (`match` under `mask`; 30_encoding.md R81, R95). -/

namespace Sys2Proof.Laws.TableWord

/-- The first 16 bits of an encoding: the selector of a request, byte0 and byte1 of a frame (byte0 the lower). -/
def firstWord : Encoded → BitVec 16
  | .request r => r.op.setWidth 16
  | .frame bs => sourceOf bs 1 ++ sourceOf bs 0

/-- The row of the table: its mask and its match, in 16 bits. -/
def row : Instr → BitVec 16 × BitVec 16
  | .write16 _ _ _ => (0xF, 0x1)
  | .write32 _ _ _ => (0xF, 0x2)
  | .write64 _ _ _ => (0xF, 0x3)
  | .read16 _ _ => (0xF, 0x4)
  | .read32 _ _ => (0xF, 0x5)
  | .read64 _ _ => (0xF, 0x6)
  | .crc8 _ _ _ => (0xF, 0x7)
  | .encode _ _ => (0xF, 0x8)
  | .decode _ => (0xF, 0x9)
  | .k1Error _ _ _ _ _ => (0x00FF, 0x00)
  | .k2SensorEnable _ _ _ _ => (0x00FF, 0x01)
  | .k3SensorDisable _ _ _ _ => (0x00FF, 0x02)
  | .k4SensorGet _ _ _ _ => (0x00FF, 0x04)
  | .k5Time _ _ _ _ _ => (0x00FF, 0x05)
  | .k6ActuatorAck _ _ _ _ => (0x00FF, 0x07)
  | .k7ActuatorServo _ _ _ _ => (0xFFFF, 0x0006)
  | .k8ActuatorMotor _ _ _ _ => (0xFFFF, 0x0106)
  | .k9ActuatorLed _ _ _ _ => (0xFFFF, 0x0206)
  | .k10SensorDataUnknown _ _ _ => (0xFFFF, 0x0003)
  | .k11SensorDataProximity _ _ _ _ => (0xFFFF, 0x0103)
  | .k12SensorDataGyroscope _ _ _ _ _ _ => (0xFFFF, 0x0203)
  | .k13SensorDataAccelerometer _ _ _ _ _ _ => (0xFFFF, 0x0303)
  | .k14SensorDataMagnetometer _ _ _ _ _ _ => (0xFFFF, 0x0403)
  | .k15SensorDataOrientation _ _ _ _ _ _ => (0xFFFF, 0x0503)
  | .k16SensorDataServo _ _ _ _ => (0xFFFF, 0x0603)
  | .k17SensorDataMotor _ _ _ _ => (0xFFFF, 0x0703)
  | .k18SensorDataLed _ _ _ _ => (0xFFFF, 0x0803)
  | .k19SensorDataMouse _ _ _ _ _ _ _ => (0xFFFF, 0x0903)
  | .k20SensorDataSbus _ _ _ _ _ => (0xFFFF, 0x0A03)
  | .k21SensorDataSensorTypeEnd _ _ _ => (0xFFFF, 0x0B03)

/-- The encoding of `i` has the fixed bits of its row. -/
def Statement (i : Instr) : Prop := firstWord (encode i) &&& (row i).1 = (row i).2

section
variable (t : SensorType) (d q c code b u : Byte) (off n : Nat) (view : View)

theorem write16 (v : BitVec 16) : Statement (.write16 v off view) := by
  show (0x1#4).setWidth 16 &&& 0xF = (0x1 : BitVec 16)
  decide
theorem write32 (v : BitVec 32) : Statement (.write32 v off view) := by
  show (0x2#4).setWidth 16 &&& 0xF = (0x2 : BitVec 16)
  decide
theorem write64 (v : BitVec 64) : Statement (.write64 v off view) := by
  show (0x3#4).setWidth 16 &&& 0xF = (0x3 : BitVec 16)
  decide
theorem read16 : Statement (.read16 off view) := by
  show (0x4#4).setWidth 16 &&& 0xF = (0x4 : BitVec 16)
  decide
theorem read32 : Statement (.read32 off view) := by
  show (0x5#4).setWidth 16 &&& 0xF = (0x5 : BitVec 16)
  decide
theorem read64 : Statement (.read64 off view) := by
  show (0x6#4).setWidth 16 &&& 0xF = (0x6 : BitVec 16)
  decide
theorem crc8 : Statement (.crc8 off n view) := by
  show (0x7#4).setWidth 16 &&& 0xF = (0x7 : BitVec 16)
  decide
theorem encode (msg : Message) : Statement (.encode msg view) := by
  show (0x8#4).setWidth 16 &&& 0xF = (0x8 : BitVec 16)
  decide
theorem decode : Statement (.decode view) := by
  show (0x9#4).setWidth 16 &&& 0xF = (0x9 : BitVec 16)
  decide
theorem k1Error : Statement (.k1Error t d q code c) := by
  show (t.code ++ MessageType.code .error : BitVec 16) &&& 0x00FF = 0x00
  cases t <;> decide
theorem k2SensorEnable : Statement (.k2SensorEnable t d q c) := by
  show (t.code ++ MessageType.code .sensorEnable : BitVec 16) &&& 0x00FF = 0x01
  cases t <;> decide
theorem k3SensorDisable : Statement (.k3SensorDisable t d q c) := by
  show (t.code ++ MessageType.code .sensorDisable : BitVec 16) &&& 0x00FF = 0x02
  cases t <;> decide
theorem k4SensorGet : Statement (.k4SensorGet t d q c) := by
  show (t.code ++ MessageType.code .sensorGet : BitVec 16) &&& 0x00FF = 0x04
  cases t <;> decide
theorem k5Time (v : BitVec 64) : Statement (.k5Time t d q v c) := by
  show (t.code ++ MessageType.code .time : BitVec 16) &&& 0x00FF = 0x05
  cases t <;> decide
theorem k6ActuatorAck : Statement (.k6ActuatorAck t d q c) := by
  show (t.code ++ MessageType.code .actuatorAck : BitVec 16) &&& 0x00FF = 0x07
  cases t <;> decide
theorem k7ActuatorServo (v : Int16) : Statement (.k7ActuatorServo d q v c) := by
  show (ActuatorType.servo.code ++ MessageType.code .actuator : BitVec 16) &&& 0xFFFF = 0x0006
  decide
theorem k8ActuatorMotor (v : Int16) : Statement (.k8ActuatorMotor d q v c) := by
  show (ActuatorType.motor.code ++ MessageType.code .actuator : BitVec 16) &&& 0xFFFF = 0x0106
  decide
theorem k9ActuatorLed : Statement (.k9ActuatorLed d q b c) := by
  show (ActuatorType.led.code ++ MessageType.code .actuator : BitVec 16) &&& 0xFFFF = 0x0206
  decide
theorem k10SensorDataUnknown : Statement (.k10SensorDataUnknown d q c) := by
  show (SensorType.unknown.code ++ MessageType.code .sensorData : BitVec 16) &&& 0xFFFF = 0x0003
  decide
theorem k11SensorDataProximity (v : Int16) : Statement (.k11SensorDataProximity d q v c) := by
  show (SensorType.proximity.code ++ MessageType.code .sensorData : BitVec 16) &&& 0xFFFF = 0x0103
  decide
theorem k12SensorDataGyroscope (x y z : Int32) : Statement (.k12SensorDataGyroscope d q x y z c) := by
  show (SensorType.gyroscope.code ++ MessageType.code .sensorData : BitVec 16) &&& 0xFFFF = 0x0203
  decide
theorem k13SensorDataAccelerometer (x y z : Int32) : Statement (.k13SensorDataAccelerometer d q x y z c) := by
  show (SensorType.accelerometer.code ++ MessageType.code .sensorData : BitVec 16) &&& 0xFFFF = 0x0303
  decide
theorem k14SensorDataMagnetometer (x y z : Int32) : Statement (.k14SensorDataMagnetometer d q x y z c) := by
  show (SensorType.magnetometer.code ++ MessageType.code .sensorData : BitVec 16) &&& 0xFFFF = 0x0403
  decide
theorem k15SensorDataOrientation (x y z : Int32) : Statement (.k15SensorDataOrientation d q x y z c) := by
  show (SensorType.orientation.code ++ MessageType.code .sensorData : BitVec 16) &&& 0xFFFF = 0x0503
  decide
theorem k16SensorDataServo (v : Int16) : Statement (.k16SensorDataServo d q v c) := by
  show (SensorType.servo.code ++ MessageType.code .sensorData : BitVec 16) &&& 0xFFFF = 0x0603
  decide
theorem k17SensorDataMotor (v : Int16) : Statement (.k17SensorDataMotor d q v c) := by
  show (SensorType.motor.code ++ MessageType.code .sensorData : BitVec 16) &&& 0xFFFF = 0x0703
  decide
theorem k18SensorDataLed : Statement (.k18SensorDataLed d q b c) := by
  show (SensorType.led.code ++ MessageType.code .sensorData : BitVec 16) &&& 0xFFFF = 0x0803
  decide
theorem k19SensorDataMouse (x y : Int32) (w : BitVec 32) : Statement (.k19SensorDataMouse d q x y w u c) := by
  show (SensorType.mouse.code ++ MessageType.code .sensorData : BitVec 16) &&& 0xFFFF = 0x0903
  decide
theorem k20SensorDataSbus (ch : Channels) : Statement (.k20SensorDataSbus d q ch u c) := by
  show (SensorType.sbus.code ++ MessageType.code .sensorData : BitVec 16) &&& 0xFFFF = 0x0A03
  decide
theorem k21SensorDataSensorTypeEnd : Statement (.k21SensorDataSensorTypeEnd d q c) := by
  show (SensorType.sensorTypeEnd.code ++ MessageType.code .sensorData : BitVec 16) &&& 0xFFFF = 0x0B03
  decide

end

end Sys2Proof.Laws.TableWord
end

