-- ==== Sys2Proof/Tests/Slice0.lean ====
section
/-! SUPPORT. The model's own tests. Expected results are the vectors of spec/95_test_vectors.md (named in each comment) or
words written out from spec/30_encoding.md. The tables `tId` and `t07` are that file's SUBSTITUTE tables, not the
hardware's. Then one witness theorem for each statement with hypotheses. -/

namespace Sys2Proof.Tests

open Sys2Proof Sys2Proof.Machine

/-- `T_ID` of 95_test_vectors.md. -/
def tId (b : Byte) : Byte := b

/-- `T07` of 95_test_vectors.md, row by row. -/
def t07Rows : List (List Byte) :=
  [
  [0x00, 0x07, 0x0E, 0x09, 0x1C, 0x1B, 0x12, 0x15, 0x38, 0x3F, 0x36, 0x31, 0x24, 0x23, 0x2A, 0x2D],
  [0x70, 0x77, 0x7E, 0x79, 0x6C, 0x6B, 0x62, 0x65, 0x48, 0x4F, 0x46, 0x41, 0x54, 0x53, 0x5A, 0x5D],
  [0xE0, 0xE7, 0xEE, 0xE9, 0xFC, 0xFB, 0xF2, 0xF5, 0xD8, 0xDF, 0xD6, 0xD1, 0xC4, 0xC3, 0xCA, 0xCD],
  [0x90, 0x97, 0x9E, 0x99, 0x8C, 0x8B, 0x82, 0x85, 0xA8, 0xAF, 0xA6, 0xA1, 0xB4, 0xB3, 0xBA, 0xBD],
  [0xC7, 0xC0, 0xC9, 0xCE, 0xDB, 0xDC, 0xD5, 0xD2, 0xFF, 0xF8, 0xF1, 0xF6, 0xE3, 0xE4, 0xED, 0xEA],
  [0xB7, 0xB0, 0xB9, 0xBE, 0xAB, 0xAC, 0xA5, 0xA2, 0x8F, 0x88, 0x81, 0x86, 0x93, 0x94, 0x9D, 0x9A],
  [0x27, 0x20, 0x29, 0x2E, 0x3B, 0x3C, 0x35, 0x32, 0x1F, 0x18, 0x11, 0x16, 0x03, 0x04, 0x0D, 0x0A],
  [0x57, 0x50, 0x59, 0x5E, 0x4B, 0x4C, 0x45, 0x42, 0x6F, 0x68, 0x61, 0x66, 0x73, 0x74, 0x7D, 0x7A]] ++ [
  [0x89, 0x8E, 0x87, 0x80, 0x95, 0x92, 0x9B, 0x9C, 0xB1, 0xB6, 0xBF, 0xB8, 0xAD, 0xAA, 0xA3, 0xA4],
  [0xF9, 0xFE, 0xF7, 0xF0, 0xE5, 0xE2, 0xEB, 0xEC, 0xC1, 0xC6, 0xCF, 0xC8, 0xDD, 0xDA, 0xD3, 0xD4],
  [0x69, 0x6E, 0x67, 0x60, 0x75, 0x72, 0x7B, 0x7C, 0x51, 0x56, 0x5F, 0x58, 0x4D, 0x4A, 0x43, 0x44],
  [0x19, 0x1E, 0x17, 0x10, 0x05, 0x02, 0x0B, 0x0C, 0x21, 0x26, 0x2F, 0x28, 0x3D, 0x3A, 0x33, 0x34],
  [0x4E, 0x49, 0x40, 0x47, 0x52, 0x55, 0x5C, 0x5B, 0x76, 0x71, 0x78, 0x7F, 0x6A, 0x6D, 0x64, 0x63],
  [0x3E, 0x39, 0x30, 0x37, 0x22, 0x25, 0x2C, 0x2B, 0x06, 0x01, 0x08, 0x0F, 0x1A, 0x1D, 0x14, 0x13],
  [0xAE, 0xA9, 0xA0, 0xA7, 0xB2, 0xB5, 0xBC, 0xBB, 0x96, 0x91, 0x98, 0x9F, 0x8A, 0x8D, 0x84, 0x83],
  [0xDE, 0xD9, 0xD0, 0xD7, 0xC2, 0xC5, 0xCC, 0xCB, 0xE6, 0xE1, 0xE8, 0xEF, 0xFA, 0xFD, 0xF4, 0xF3]]

def t07 (b : Byte) : Byte := (t07Rows.getD (b.toNat / 16) []).getD (b.toNat % 16) 0

/-- The state whose storage starts with these bytes. -/
def withBytes (bs : List Byte) : State := { State.reset with mem := Memory.writeBytes [] 0 bs }

/-- The response a state was left with, and the first `n` bytes of storage. -/
def rspOf : Host.Outcome State Fault Refusal → Option Response
  | .next s => some s.rsp
  | .fault _ => none
  | .refused _ => none

def bytesOf (n : Nat) : Host.Outcome State Fault Refusal → Option (List Byte)
  | .next s => some (s.bytesAt ⟨0, n⟩ 0 n)
  | .fault _ => none
  | .refused _ => none

def faultOf : Host.Outcome State Fault Refusal → Option Fault
  | .next _ => none
  | .fault f => some f
  | .refused _ => none

def refusalIn : Host.Outcome State Fault Refusal → Option Refusal
  | .next _ => none
  | .fault _ => none
  | .refused q => some q

/-- A view of 16 bytes, and one of 22. -/
def v16 : View := ⟨0, 16⟩
def v22 : View := ⟨0, 22⟩

/-! ### The Messages of 95_test_vectors.md section 2.3 -/

def enc1 : Message := ⟨.time, .sensor .unknown, 3, 7, .time 1000000⟩
def enc2 : Message := ⟨.actuator, .actuator .servo, 1, 0, .servo 90⟩
def enc3 : Message := ⟨.error, .sensor .unknown, 1, 2, .error .sensorTimeout⟩
def enc4 : Message := ⟨.sensorEnable, .sensor .proximity, 5, 6, .empty⟩
def enc5 : Message := ⟨.sensorData, .sensor .unknown, 0, 0, .empty⟩
def enc6 : Message := ⟨.actuator, .actuator .motor, 2, 9, .motor (-1)⟩
def enc7 : Message := ⟨.actuator, .actuator .led, 0, 1, .led 0xFF⟩
def enc8 : Message := ⟨.sensorData, .sensor .proximity, 4, 0, .proximity (-32768)⟩
def enc9 : Message := ⟨.sensorData, .sensor .gyroscope, 7, 8, .gyroscope (-1) 2 (-2147483648)⟩
def enc10 : Message := ⟨.sensorData, .sensor .mouse, 1, 1, .mouse 10 (-10) 0xDEADBEEF 0x80⟩
def enc11 : Message :=
  ⟨.sensorData, .sensor .sbus, 0x10, 0x20, .sbus ⟨0, 1, 2, 3, 1000, 2047, 0xFFFF, 0x1234⟩ 0x0C⟩
def enc12 : Message := ⟨.time, .sensor .sensorTypeEnd, 0xFF, 0xFF, .time 0xFFFFFFFFFFFFFFFF⟩
def enc17 : Message := ⟨.sensorData, .sensor .sensorTypeEnd, 0, 0, .empty⟩
/-- ENC-14 and ENC-15: a payload of another variant, and a subtype of the wrong space. -/
def enc14 : Message := ⟨.sensorData, .sensor .mouse, 0, 0, .led 1⟩
def enc15 : Message := ⟨.actuator, .sensor .servo, 0, 0, .servo 0⟩
/-- The three variants the vectors leave out. -/
def accel : Message := ⟨.sensorData, .sensor .accelerometer, 0, 0, .accelerometer 1 2 3⟩
def magnet : Message := ⟨.sensorData, .sensor .magnetometer, 0, 0, .magnetometer 1 2 3⟩
def orient : Message := ⟨.sensorData, .sensor .orientation, 0, 0, .orientation 1 2 3⟩

/-! ### WellFormed: each check refuses an ill-formed term and passes its boundary -/

theorem test_wf_write16 : (Instr.write16 0 15 v16).wf = false ∧ (Instr.write16 0 14 v16).wf = true := by decide
theorem test_wf_write32 : (Instr.write32 0 13 v16).wf = false ∧ (Instr.write32 0 12 v16).wf = true := by decide
theorem test_wf_write64 : (Instr.write64 0 9 v16).wf = false ∧ (Instr.write64 0 8 v16).wf = true := by decide
theorem test_wf_read16 : (Instr.read16 0 ⟨0, 1⟩).wf = false ∧ (Instr.read16 0 ⟨0, 2⟩).wf = true := by decide
theorem test_wf_read32 : (Instr.read32 13 v16).wf = false ∧ (Instr.read32 12 v16).wf = true := by decide
theorem test_wf_read64 : (Instr.read64 0 ⟨0, 0⟩).wf = false ∧ (Instr.read64 8 v16).wf = true := by decide
theorem test_wf_crc8 : (Instr.crc8 1 16 v16).wf = false ∧ (Instr.crc8 16 0 v16).wf = true := by decide
theorem test_wf_encode_capacity : (Instr.encode enc4 ⟨0, 21⟩).wf = false ∧ (Instr.encode enc4 v22).wf = true := by decide
theorem test_wf_encode_variant : (Instr.encode enc14 v22).wf = false := by decide
theorem test_wf_encode_space : (Instr.encode enc15 v22).wf = false := by decide
theorem test_view_fits : ¬View.fits 4 v16 ∧ View.fits 5 v16 := by simp [View.fits, v16]

/-! ### Decoding: one word per constructor, written out from 30_encoding.md R81, R84 and R95, R96 -/

theorem test_decode_write16 : decode (.request ⟨0b0001, some 0xFFFFFFFFFFFFBEEF, some 5, none, none, v16⟩) =
    .ok (.write16 0xBEEF 5 v16) := by decide
theorem test_decode_write32 : decode (.request ⟨0b0010, some 0x12345678, some 0, none, none, v16⟩) =
    .ok (.write32 0x12345678 0 v16) := by decide
theorem test_decode_write64 : decode (.request ⟨0b0011, some 0x0102030405060708, some 8, none, none, v16⟩) =
    .ok (.write64 0x0102030405060708 8 v16) := by decide
theorem test_decode_read16 : decode (.request ⟨0b0100, none, some 2, none, none, v16⟩) = .ok (.read16 2 v16) := by decide
theorem test_decode_read32 : decode (.request ⟨0b0101, none, some 4, none, none, v16⟩) = .ok (.read32 4 v16) := by decide
theorem test_decode_read64 : decode (.request ⟨0b0110, none, some 8, none, none, v16⟩) = .ok (.read64 8 v16) := by decide
theorem test_decode_crc8 : decode (.request ⟨0b0111, none, some 0, some 12, none, v22⟩) = .ok (.crc8 0 12 v22) := by
  decide
theorem test_decode_encode : decode (.request ⟨0b1000, none, none, none, some enc1, v22⟩) = .ok (.encode enc1 v22) := by
  decide
theorem test_decode_decode : decode (.request ⟨0b1001, none, none, none, none, v22⟩) = .ok (.decode v22) := by decide
theorem test_decode_reserved : decode (.request ⟨0b0000, none, none, none, none, v22⟩) = .error (.badRequest .reservedOp) ∧
    decode (.request ⟨0b1010, none, none, none, none, v22⟩) = .error (.badRequest .reservedOp) ∧
    decode (.request ⟨0b1111, none, none, none, none, v22⟩) = .error (.badRequest .reservedOp) := by decide
theorem test_decode_missing : decode (.request ⟨0b0001, none, some 0, none, none, v16⟩) =
    .error (.badRequest .missingOperand) := by decide

/-- A whole frame written out bit by bit: byte0 = 00000110 (ACTUATOR), byte1 = 00000000 (SERVO), id 1, sequence 0, angle
0x005A low byte first, trailer 0xD3 (ENC-2). -/
theorem test_decode_k7_bits : decode (.frame
    [0b00000110, 0b00000000, 0b00000001, 0b00000000, 0b01011010, 0b00000000, 0b11010011]) =
    .ok (.k7ActuatorServo 1 0 90 0xD3) := by decide
theorem test_decode_k1 : decode (.frame [0x00, 0x00, 0x01, 0x02, 0x06, 0x6C]) =
    .ok (.k1Error .unknown 1 2 6 0x6C) := by decide
theorem test_decode_k2 : decode (.frame [0x01, 0x01, 0x05, 0x06, 0x27]) =
    .ok (.k2SensorEnable .proximity 5 6 0x27) := by decide
theorem test_decode_k3 : decode (.frame [0x02, 0x0B, 0x01, 0x02, 0x03]) =
    .ok (.k3SensorDisable .sensorTypeEnd 1 2 3) := by decide
theorem test_decode_k4 : decode (.frame [0x04, 0x00, 0x03, 0x07, 0x7B]) =
    .ok (.k4SensorGet .unknown 3 7 0x7B) := by decide
theorem test_decode_k5 : decode (.frame [0x05, 0x00, 0x03, 0x07, 0x40, 0x42, 0x0F, 0x00, 0x00, 0x00, 0x00, 0x00, 0xC5]) =
    .ok (.k5Time .unknown 3 7 1000000 0xC5) := by decide
theorem test_decode_k6 : decode (.frame [0x07, 0x0A, 0x01, 0x02, 0x03]) =
    .ok (.k6ActuatorAck .sbus 1 2 3) := by decide
theorem test_decode_k8 : decode (.frame [0x06, 0x01, 0x02, 0x09, 0xFF, 0xFF, 0x1B]) =
    .ok (.k8ActuatorMotor 2 9 (-1) 0x1B) := by decide
theorem test_decode_k9 : decode (.frame [0x06, 0x02, 0x00, 0x01, 0xFF, 0xBE]) =
    .ok (.k9ActuatorLed 0 1 0xFF 0xBE) := by decide
theorem test_decode_k10 : decode (.frame [0x03, 0x00, 0x00, 0x00, 0x33]) =
    .ok (.k10SensorDataUnknown 0 0 0x33) := by decide
theorem test_decode_k11 : decode (.frame [0x03, 0x01, 0x04, 0x00, 0x00, 0x80, 0x75]) =
    .ok (.k11SensorDataProximity 4 0 (-32768) 0x75) := by decide
theorem test_decode_k12 : decode (.frame [0x03, 0x02, 0x07, 0x08, 0xFF, 0xFF, 0xFF, 0xFF, 0x02, 0, 0, 0, 0, 0, 0, 0x80, 0xD0]) =
    .ok (.k12SensorDataGyroscope 7 8 (-1) 2 (-2147483648) 0xD0) := by decide
theorem test_decode_k13 : decode (.frame [0x03, 0x03, 0x00, 0x00, 1, 0, 0, 0, 2, 0, 0, 0, 3, 0, 0, 0, 0x55]) =
    .ok (.k13SensorDataAccelerometer 0 0 1 2 3 0x55) := by decide
theorem test_decode_k14 : decode (.frame [0x03, 0x04, 0x00, 0x00, 0, 1, 0, 0, 0, 0, 1, 0, 0, 0, 0, 1, 0x55]) =
    .ok (.k14SensorDataMagnetometer 0 0 0x100 0x10000 0x1000000 0x55) := by decide
theorem test_decode_k15 : decode (.frame [0x03, 0x05, 0x09, 0x08, 1, 0, 0, 0, 2, 0, 0, 0, 3, 0, 0, 0, 0x55]) =
    .ok (.k15SensorDataOrientation 9 8 1 2 3 0x55) := by decide
theorem test_decode_k16 : decode (.frame [0x03, 0x06, 0x01, 0x00, 0xFE, 0xFF, 0x55]) =
    .ok (.k16SensorDataServo 1 0 (-2) 0x55) := by decide
theorem test_decode_k17 : decode (.frame [0x03, 0x07, 0x01, 0x00, 0x34, 0x12, 0x55]) =
    .ok (.k17SensorDataMotor 1 0 0x1234 0x55) := by decide
theorem test_decode_k18 : decode (.frame [0x03, 0x08, 0x01, 0x00, 0xAB, 0x55]) =
    .ok (.k18SensorDataLed 1 0 0xAB 0x55) := by decide
theorem test_decode_k19 : decode (.frame [0x03, 0x09, 0x01, 0x01, 0x0A, 0, 0, 0, 0xF6, 0xFF, 0xFF, 0xFF, 0xEF, 0xBE, 0xAD, 0xDE, 0x80, 0x07]) =
    .ok (.k19SensorDataMouse 1 1 10 (-10) 0xDEADBEEF 0x80 0x07) := by decide
theorem test_decode_k20 : decode (.frame [0x03, 0x0A, 0x10, 0x20, 0, 0, 1, 0, 2, 0, 3, 0, 0xE8, 0x03, 0xFF, 0x07, 0xFF, 0xFF, 0x34, 0x12,
    0x0C, 0x1E]) =
    .ok (.k20SensorDataSbus 0x10 0x20 ⟨0, 1, 2, 3, 1000, 2047, 0xFFFF, 0x1234⟩ 0x0C 0x1E) := by decide
theorem test_decode_k21 : decode (.frame [0x03, 0x0B, 0x00, 0x00, 0xDF]) =
    .ok (.k21SensorDataSensorTypeEnd 0 0 0xDF) := by decide

theorem test_table_words : decodeTableWord 8 0b1000 = some (.encode zeroMessage v22) ∧
    decodeTableWord 16 0b0000000000000110 = some (.k7ActuatorServo 0 0 0 0) := by decide

/-- The next step after reset runs the table word's instruction. -/
theorem test_fetch_request : step (State.reset.withFetchWord 8 0x4) = returned (exec (.read16 0 v22)
    { State.reset with req := some (zeroRequest 0x4) }) := by rfl
theorem test_fetch_frame : ∃ t, step (State.reset.withFetchWord 16 0x0106) = .next t.release ∧
    exec (.k8ActuatorMotor 0 0 0 0) { State.reset.withFetchWord 16 0x0106 with
      program := []
      req := some (zeroRequest 0x9) } = .next t := ⟨_, rfl, rfl⟩

/-! ### Integer Codec (95_test_vectors.md 2.1) -/

/-- INT-1, INT-2, INT-3. -/
theorem test_write16 : bytesOf 3 (exec (.write16 0x1234 0 v16) State.reset) = some [0x34, 0x12, 0] ∧
    rspOf (exec (.write16 0x1234 0 v16) State.reset) = some (okCount 2) := by decide
theorem test_write32_misaligned : bytesOf 8 (exec (.write32 0xDEADBEEF 3 v16) State.reset) =
    some [0, 0, 0, 0xEF, 0xBE, 0xAD, 0xDE, 0] := by decide
theorem test_write64_to_the_end : bytesOf 17 (exec (.write64 0x0102030405060708 8 v16) State.reset) =
    some [0, 0, 0, 0, 0, 0, 0, 0, 8, 7, 6, 5, 4, 3, 2, 1, 0] := by decide
/-- INT-5. -/
theorem test_write16_zero : bytesOf 4 (exec (.write16 0 0 v16) (withBytes [0xFF, 0xFF, 0xFF, 0xFF])) =
    some [0, 0, 0xFF, 0xFF] := by decide
/-- INT-6, INT-7, INT-8. -/
theorem test_read16_zero_extends : rspOf (exec (.read16 0 v16) (withBytes [0xFF, 0xFF])) =
    some (okValue 0x000000000000FFFF) := by decide
theorem test_read32_zero_extends : rspOf (exec (.read32 0 v16) (withBytes [0, 0, 0, 0x80])) =
    some (okValue 0x0000000080000000) := by decide
/-- P1 step 6's bytes. -/
theorem test_read64 : rspOf (exec (.read64 0 v16) (withBytes [8, 7, 6, 5, 4, 3, 2, 1])) =
    some (okValue 0x0102030405060708) := by decide
/-- INT-16: a misaligned narrower read. -/
theorem test_read16_inside_write32 : rspOf (exec (.read16 1 v16) (withBytes [0x44, 0x33, 0x22, 0x11])) =
    some (okValue 0x2233) := by decide
/-- INT-10 to INT-13 and their neighbours. -/
theorem test_integer_range : faultOf (exec (.write16 1 15 v16) State.reset) = some .range ∧
    faultOf (exec (.write32 1 13 v16) State.reset) = some .range ∧
    faultOf (exec (.write64 1 9 v16) State.reset) = some .range ∧
    faultOf (exec (.read16 0 ⟨0, 1⟩) State.reset) = some .range ∧
    faultOf (exec (.read32 13 v16) State.reset) = some .range ∧
    faultOf (exec (.read64 0 ⟨0, 0⟩) State.reset) = some .range := by decide

/-! ### CRC-8 (95_test_vectors.md 2.2) -/

/-- CRC-1, CRC-3 to CRC-7, under both substitute tables. -/
theorem test_crc_identity : crc8Of tId [] = 0xDE ∧ crc8Of tId [0x05] = 0xDB ∧ crc8Of tId [0xDE] = 0x00 ∧
    crc8Of tId [0x05, 0, 3, 7, 0x40, 0x42, 0x0F, 0, 0, 0, 0, 0] = 0xD2 := by decide
theorem test_crc_t07 : crc8Of t07 [] = 0xDE ∧ crc8Of t07 [0x05] = 0x0F ∧ crc8Of t07 [0x00] = 0x14 ∧
    crc8Of t07 [0x04, 0, 3, 7] = 0x7B ∧
    crc8Of t07 [0x05, 0, 3, 7, 0x40, 0x42, 0x0F, 0, 0, 0, 0, 0] = 0xC5 := by decide
/-- CRC-9, CRC-2. -/
theorem test_crc_range : faultOf (exec (.crc8 1 16 v16) State.reset) = some .range ∧
    rspOf (exec (.crc8 16 0 v16) State.reset) = some (okValue 0xDE) := by decide

/-! ### ENCODE (95_test_vectors.md 2.3, under `T07`) -/

theorem test_enc_1 : frameBytes t07 enc1 = [0x05, 0, 3, 7, 0x40, 0x42, 0x0F, 0, 0, 0, 0, 0, 0xC5] := by decide
theorem test_enc_2 : frameBytes t07 enc2 = [0x06, 0, 1, 0, 0x5A, 0, 0xD3] := by decide
theorem test_enc_3 : frameBytes t07 enc3 = [0x00, 0, 1, 2, 6, 0x6C] := by decide
theorem test_enc_4 : frameBytes t07 enc4 = [0x01, 1, 5, 6, 0x27] := by decide
theorem test_enc_5 : frameBytes t07 enc5 = [0x03, 0, 0, 0, 0x33] := by decide
theorem test_enc_6 : frameBytes t07 enc6 = [0x06, 1, 2, 9, 0xFF, 0xFF, 0x1B] := by decide
theorem test_enc_7 : frameBytes t07 enc7 = [0x06, 2, 0, 1, 0xFF, 0xBE] := by decide
theorem test_enc_8 : frameBytes t07 enc8 = [0x03, 1, 4, 0, 0, 0x80, 0x75] := by decide
theorem test_enc_9 : frameBytes t07 enc9 =
    [0x03, 2, 7, 8, 0xFF, 0xFF, 0xFF, 0xFF, 2, 0, 0, 0, 0, 0, 0, 0x80, 0xD0] := by decide +kernel
theorem test_enc_10 : frameBytes t07 enc10 =
    [0x03, 9, 1, 1, 0x0A, 0, 0, 0, 0xF6, 0xFF, 0xFF, 0xFF, 0xEF, 0xBE, 0xAD, 0xDE, 0x80, 0x07] := by decide +kernel
theorem test_enc_11 : frameBytes t07 enc11 =
    [0x03, 0x0A, 0x10, 0x20, 0, 0, 1, 0, 2, 0, 3, 0, 0xE8, 3, 0xFF, 7, 0xFF, 0xFF, 0x34, 0x12, 0x0C, 0x1E] := by
  decide +kernel
theorem test_enc_12 : frameBytes t07 enc12 =
    [0x05, 0x0B, 0xFF, 0xFF, 0xFF, 0xFF, 0xFF, 0xFF, 0xFF, 0xFF, 0xFF, 0xFF, 0x89] := by decide
theorem test_enc_17 : frameBytes t07 enc17 = [0x03, 0x0B, 0, 0, 0xDF] := by decide
/-- ENC-13 to ENC-15, and the order of the two checks (60_exceptions.md R239). -/
theorem test_enc_stops : faultOf (exec (.encode enc4 ⟨0, 21⟩) State.reset) = some .capacity ∧
    refusalIn (exec (.encode enc14 v22) State.reset) = some .illFormedMessage ∧
    refusalIn (exec (.encode enc15 ⟨0, 0⟩) State.reset) = some .illFormedMessage := by decide

/-! ### DECODE (95_test_vectors.md 2.4, 2.5, under `T07`) -/

/-- DECODE of exactly these bytes. -/
def dec (bs : List Byte) : Response := decodeResponse t07 bs.length (sourceOf bs)

/-- DEC-1 to DEC-4, DEC-7. -/
theorem test_dec_tags_first : dec [] = raised .bufferTooShort ∧ dec [3] = raised .bufferTooShort ∧
    dec [8] = raised .invalidMessageType ∧ dec [0xFF] = raised .invalidMessageType ∧
    dec [5, 0x0C] = raised .invalidSensorType := by decide
/-- DEC-5, DEC-6, DEC-8, DEC-9, DEC-12. -/
theorem test_dec_short : dec [3, 0x0C, 0, 0] = raised .invalidSensorType ∧
    dec [6, 3, 0, 0] = raised .invalidActuatorType ∧ dec [5, 0x0B, 0, 0] = raised .bufferTooShort ∧
    dec [6, 0, 1, 0, 0x5A, 0] = raised .bufferTooShort ∧ dec [1, 1, 5, 6] = raised .bufferTooShort := by decide
/-- DEC-10, DEC-11. -/
theorem test_dec_trailer : dec [6, 0, 1, 0, 0x5A, 0, 0xD2] = raised .checksumMismatch ∧
    dec [6, 0, 1, 0, 0x5A, 0, 0xD3, 0xAA, 0xBB] = okMessage enc2 7 := by decide
/-- DEC-13, DEC-14. -/
theorem test_dec_error_code : dec [0, 0, 0, 0, 7, 0x2A] = raised .invalidErrorCode ∧
    dec [0, 0, 0, 0, 7, 0x2D] = raised .checksumMismatch := by decide
/-- DEC-15, DEC-16, DEC-18. -/
theorem test_dec_fields : dec [0x03, 0x0A, 0x10, 0x20, 0, 0, 1, 0, 2, 0, 3, 0, 0xE8, 3, 0xFF, 7, 0xFF, 0xFF, 0x34, 0x12,
      0x0C, 0x1E] = okMessage enc11 22 ∧
    dec [0x03, 2, 7, 8, 0xFF, 0xFF, 0xFF, 0xFF, 2, 0, 0, 0, 0, 0, 0, 0x80, 0xD0] = okMessage enc9 17 ∧
    dec [3, 0x0B, 0, 0, 0xDF] = okMessage enc17 5 := by decide +kernel
/-- D-C2: the documented collision. -/
theorem test_dec_collision : dec [4, 0, 3, 7, 0x7B, 0, 0, 0, 0, 0, 0, 0, 0x5D] =
    okMessage ⟨.sensorGet, .sensor .unknown, 3, 7, .empty⟩ 5 := by decide
/-- FLIP-6, FLIP-4. -/
theorem test_dec_flips : dec [5, 0x10, 3, 7, 0x40, 0x42, 0x0F, 0, 0, 0, 0, 0, 0xC5] = raised .invalidSensorType ∧
    dec [0x0D, 0, 3, 7, 0x40, 0x42, 0x0F, 0, 0, 0, 0, 0, 0xC5] = raised .invalidMessageType := by decide

/-! ### Witnesses: for each statement with hypotheses, a state and operands that meet all of them -/

/-- Every payload variant. -/
def messages : List Message :=
  [enc1, enc2, enc3, enc4, enc6, enc7, enc8, enc9, enc10, enc11, accel, magnet, orient]

theorem test_messages_cover : messages.map (fun m => m.payload.variant) = [.time, .servo, .error, .empty, .motor, .led,
    .proximity, .gyroscope, .mouse, .sbus, .accelerometer, .magnetometer, .orientation] ∧
    ∀ m ∈ messages, m.wf = true := by decide

/-- The state whose storage starts with the frame of a Message, with the hardware's own trailer. -/
def framed (m : Message) : State := State.reset.storeBytes v22 0 (frameBytes Config.crc8Table m)

theorem byteAt_framed (m : Message) (len o : Nat) : (framed m).byteAt ⟨0, len⟩ o =
    if o < (frameBytes Config.crc8Table m).length then (frameBytes Config.crc8Table m).getD o 0 else 0 := by
  have h := byteAt_storeBytes State.reset v22 0 o (frameBytes Config.crc8Table m)
  simpa [framed, State.byteAt, State.reset, Memory.read, v22] using h

theorem decode_framed {m : Message} {len : Nat} (hw : m.wf = true) (hl : 5 + payloadLen m.type m.subtype ≤ len) :
    exec (.decode ⟨0, len⟩) (framed m) =
      .next ((framed m).reply (okMessage m (5 + payloadLen m.type m.subtype))) := by
  show Host.Outcome.next ((framed m).reply _) = _
  rw [decodeResponse_frameBytes Config.crc8Table m len _ hw hl fun o ho => by
    rw [byteAt_framed, length_frameBytes _ hw, if_pos ho]]

theorem test_witness_FrameBytesAreEncodeOfDecode :
    decode (.frame [1, 1, 5, 6, 0x27, 0xAA]) = .ok (.k2SensorEnable .proximity 5 6 0x27) := by decide

theorem test_witness_ReservedSelectorsAreRefused (op : BitVec 4) (_ : op = 0x0 ∨ op = 0xA ∨ op = 0xF) :
    ∃ (s : State) (r : Request), s.program = .request r :: [] ∧ r.op = op ∧ (r.op = 0x0 ∨ 0xA#4 ≤ r.op) := by
  refine ⟨{ State.reset with program := [.request (zeroRequest op)] }, zeroRequest op, rfl, rfl, ?_⟩
  revert op; decide

theorem test_witness_FrameSizes : (MsgSubtype.sensor .sbus).inSpace .sensorData = true ∧
    (MsgSubtype.actuator .led).inSpace .actuator = true ∧ (MsgSubtype.sensor .unknown).inSpace .error = true := by decide

/-- The WRITE and READ statements: the last offset in range and the first one out of it, for each width. -/
theorem test_witness_ReadWriteRanges : v16.len < 15 + 2 ∧ 14 + 2 ≤ v16.len ∧ v16.len < 13 + 4 ∧ 12 + 4 ≤ v16.len ∧
    v16.len < 9 + 8 ∧ 8 + 8 ≤ v16.len := by decide

theorem test_witness_ReadAfterWriteGivesValue : ∃ t16 t32 t64 : State,
    exec (.write16 0xBEEF 14 v16) State.reset = .next t16 ∧ exec (.write32 0xDEADBEEF 12 v16) State.reset = .next t32 ∧
    exec (.write64 0 8 v16) State.reset = .next t64 ∧ (∀ k < 2, t16.byteAt v16 (14 + k) = t16.byteAt v16 (14 + k)) ∧
    (∀ k < 4, t32.byteAt v16 (12 + k) = t32.byteAt v16 (12 + k)) ∧
    (∀ k < 8, t64.byteAt v16 (8 + k) = t64.byteAt v16 (8 + k)) :=
  ⟨_, _, _, rfl, rfl, rfl, fun _ _ => rfl, fun _ _ => rfl, fun _ _ => rfl⟩

theorem test_witness_MixedWidthReads : (∃ t, exec (.write32 0xDEADBEEF 12 v16) State.reset = .next t) ∧
    ∃ t, exec (.write64 0x0102030405060708 8 v16) State.reset = .next t := ⟨⟨_, rfl⟩, ⟨_, rfl⟩⟩

theorem test_witness_Crc8ReturnsChecksum : v16.len < 1 + 16 ∧ 0 + 16 ≤ v16.len ∧ 16 + 0 ≤ v16.len := by decide

theorem test_witness_Crc8OfNothingIsInit : 16 ≤ v16.len := by decide

theorem test_witness_TableBijective : TableBijective tId ∧ (0 : Byte) ≠ 1 :=
  ⟨Function.bijective_id, by decide⟩

theorem test_witness_EncodeWritesHeaderAndTrailer : ∀ m ∈ messages, m.wf = true ∧ 22 ≤ v22.len := by decide

theorem test_witness_EncodeWritesPayloadFields : ∀ m ∈ messages, ∃ t, exec (.encode m v22) State.reset = .next t :=
  fun m hm => ⟨_, execEncode_eq_next.2 ⟨test_messages_cover.2 m hm, by decide, rfl⟩⟩

theorem test_witness_EncodeStops : enc14.wf = false ∧ enc15.wf = false ∧ enc4.wf = true ∧ (⟨0, 21⟩ : View).len < 22 := by
  decide

theorem test_witness_EncodeIsInjective : ∃ t t' : State, exec (.encode enc2 v22) State.reset = .next t ∧
    exec (.encode enc2 v22) (withBytes [0xFF, 0xFF]) = .next t' ∧
    ∀ o < 4 + payloadLen enc2.type enc2.subtype, t.byteAt v22 o = t'.byteAt v22 o := by
  refine ⟨_, _, execEncode_eq_next.2 ⟨by decide, by decide, rfl⟩, execEncode_eq_next.2 ⟨by decide, by decide, rfl⟩,
    fun o ho => ?_⟩
  rw [byteAt_reply, byteAt_reply, byteAt_storeBytes, byteAt_storeBytes, if_pos, if_pos] <;>
    (rw [length_frameBytes _ (by decide)]; omega)

/-- One view for each outcome before the trailer, in the order of the statement. -/
theorem test_witness_DecodeRaisesFirstError_headers :
    rspOf (exec (.decode ⟨0, 0⟩) State.reset) = some (raised .bufferTooShort) ∧
    rspOf (exec (.decode ⟨0, 1⟩) (withBytes [8])) = some (raised .invalidMessageType) ∧
    rspOf (exec (.decode ⟨0, 1⟩) (withBytes [7])) = some (raised .bufferTooShort) ∧
    rspOf (exec (.decode ⟨0, 2⟩) (withBytes [6, 3])) = some (raised .invalidActuatorType) ∧
    rspOf (exec (.decode ⟨0, 2⟩) (withBytes [5, 0x0C])) = some (raised .invalidSensorType) ∧
    rspOf (exec (.decode ⟨0, 3⟩) (withBytes [5, 0x0B, 0])) = some (raised .bufferTooShort) ∧
    rspOf (exec (.decode ⟨0, 12⟩) (withBytes [5, 0x0B, 0])) = some (raised .bufferTooShort) := by decide

/-- DECODE of a frame's own bytes. -/
theorem decode_withBytes {i : Instr} {f : WireFrame} (h : i.frame? = some f) :
    exec (.decode ⟨0, f.bytes.length⟩) (withBytes f.bytes) =
      .next ((withBytes f.bytes).reply (frameResponse Config.crc8Table f)) := by
  have hd : decodeFrame f.bytes.length ((withBytes f.bytes).byteAt ⟨0, f.bytes.length⟩) = .ok f := by
    refine (decodeFrame_ok_iff _ _ _).2 ⟨wf_of_frame? h, le_rfl, fun o ho => ?_⟩
    show Memory.read (Memory.writeBytes [] 0 f.bytes) (0 + o) = _
    rw [Memory.read_writeBytes, if_pos (by omega)]
    simp
  show Host.Outcome.next ((withBytes f.bytes).reply _) = _
  rw [decodeResponse, hd]

/-- A view for each outcome at the trailer and after it. -/
theorem test_witness_DecodeRaisesFirstError_trailers (c : Byte) :
    exec (.decode ⟨0, 5⟩) (withBytes [1, 1, 5, 6, c]) = .next ((withBytes [1, 1, 5, 6, c]).reply
      (if crc8Of Config.crc8Table [1, 1, 5, 6] = c then okMessage enc4 5 else raised .checksumMismatch)) ∧
    exec (.decode ⟨0, 6⟩) (withBytes [0, 0, 0, 0, 7, c]) = .next ((withBytes [0, 0, 0, 0, 7, c]).reply
      (if crc8Of Config.crc8Table [0, 0, 0, 0, 7] = c then raised .invalidErrorCode
        else raised .checksumMismatch)) := by
  have h1 := decode_withBytes (show (Instr.k2SensorEnable .proximity 5 6 c).frame? = some _ from rfl)
  have h2 := decode_withBytes (show (Instr.k1Error .unknown 0 0 7 c).frame? = some _ from rfl)
  exact ⟨h1, h2⟩

theorem test_witness_DecodeDeliversMessage : ∀ m ∈ messages, ∃ t, exec (.decode v22) (framed m) = .next t ∧
    t.rsp.status = some .ok := fun m hm => by
  have hl : ∀ m ∈ messages, 5 + payloadLen m.type m.subtype ≤ 22 := by decide
  exact ⟨_, decode_framed (test_messages_cover.2 m hm) (hl m hm), rfl⟩

/-- Two states that differ, but not in the view. -/
theorem test_witness_sameView : sameView ⟨0, 5⟩ (withBytes [1, 1, 5, 6, 0x27]) (withBytes [1, 1, 5, 6, 0x27, 0xAA]) ∧
    withBytes [1, 1, 5, 6, 0x27] ≠ withBytes [1, 1, 5, 6, 0x27, 0xAA] := ⟨by unfold sameView; decide, by decide⟩

theorem test_witness_DecodeIgnoresTrailingBytes : ∃ s s' t : State, exec (.decode ⟨0, 22⟩) s = .next t ∧
    t.rsp.status = some .ok ∧ t.rsp.count = some 7 ∧ 7 ≤ 7 ∧
    (∀ o < 7, Memory.read s'.mem (0 + o) = Memory.read s.mem (0 + o)) ∧
    Memory.read s'.mem 21 ≠ Memory.read s.mem 21 := by
  refine ⟨framed enc2, State.callerStore (framed enc2) 21 0xAA, _, decode_framed (by decide) (by decide), rfl, rfl,
    by decide, fun o ho => ?_, ?_⟩
  · show Memory.read (Memory.write (framed enc2).mem 21 0xAA) _ = _
    rw [Memory.read_write, if_neg (by omega)]
  · show Memory.read (Memory.write (framed enc2).mem 21 0xAA) _ ≠ _
    have h := byteAt_framed enc2 22 21
    rw [length_frameBytes _ (by decide), if_neg (by decide)] at h
    rw [Memory.read_write, if_pos rfl]
    intro e
    rw [State.byteAt, show (⟨0, 22⟩ : View).base + 21 = 21 from rfl, ← e] at h
    exact absurd h (by decide)

theorem test_witness_NoDontCareBits : ∃ t t', exec (.decode v22) (framed enc2) = .next t ∧
    exec (.decode ⟨0, 7⟩) (framed enc2) = .next t' ∧ t.rsp.msg = some enc2 ∧ t'.rsp.msg = some enc2 :=
  ⟨_, _, decode_framed (by decide) (by decide), decode_framed (by decide) (by decide), rfl, rfl⟩

theorem test_witness_EncodeDecodeRoundTrip : ∀ m ∈ messages, m.wf = true ∧ 22 ≤ v22.len := by decide

theorem test_witness_AlteredTrailerIsDetected : ∃ t u : State, exec (.encode enc2 v22) State.reset = .next t ∧
    (∀ o < 4 + payloadLen enc2.type enc2.subtype, u.byteAt v22 o = t.byteAt v22 o) ∧
    u.byteAt v22 (4 + payloadLen enc2.type enc2.subtype) ≠ t.byteAt v22 (4 + payloadLen enc2.type enc2.subtype) := by
  obtain ⟨t, ht⟩ : ∃ t, exec (.encode enc2 v22) State.reset = .next t :=
    test_witness_EncodeWritesPayloadFields enc2 (by decide)
  refine ⟨t, State.callerStore t 6 (t.byteAt v22 6 ^^^ 1), ht, fun o ho => ?_, ?_⟩
  · have ho : o < 6 := ho
    show Memory.read (Memory.write t.mem 6 _) _ = _
    rw [Memory.read_write, if_neg (by simp only [v22]; omega)]; rfl
  · show Memory.read (Memory.write t.mem 6 _) 6 ≠ _
    rw [Memory.read_write, if_pos rfl]
    have : ∀ b : Byte, b ^^^ 1 ≠ b := by decide
    exact this _

/-- The first and the last byte of the range the statement is about, under a bijective table. -/
theorem test_witness_AlteredByte : TableBijective tId ∧ enc2.wf = true ∧ 5 + payloadLen enc2.type enc2.subtype ≤ 7 ∧
    5 < 4 + payloadLen enc2.type enc2.subtype ∧ (frameBytes tId enc2).getD 2 0 ≠ 0 ∧
    (frameBytes tId enc2).getD 5 0 ≠ 1 := ⟨Function.bijective_id, by decide⟩

/-- Each outcome of `AlteredByteNeverYieldsSameMessage` occurs for some table. -/
theorem test_witness_AlteredByteNeverYieldsSameMessage :
    decodeResponse t07 7 (sourceOf ((frameBytes t07 enc2).set 2 0)) = raised .checksumMismatch ∧
    decodeResponse (fun _ => 0) 7 (sourceOf ((frameBytes (fun _ => 0) enc2).set 2 0)) =
      okMessage { enc2 with id := 0 } 7 ∧
    decodeResponse (fun _ => 0) 6 (sourceOf ((frameBytes (fun _ => 0) enc3).set 4 7)) = raised .invalidErrorCode := by
  decide

theorem test_witness_DecodeRunsTheFrameKind : ∃ f, (Instr.k2SensorEnable .proximity 5 6 0x27).frame? = some f ∧
    f.bytes.length ≤ v22.len ∧
    ∀ o < f.bytes.length, (withBytes [1, 1, 5, 6, 0x27]).byteAt v22 o = f.bytes.getD o 0 := ⟨_, rfl, by decide, by decide⟩

/-- Both sides: operands that meet the duties, of each kind of duty and of a frame kind, and operands that break one. -/
theorem test_witness_CompletesExactlyWhenDutiesMet : (Instr.write16 0 14 v16).wf = true ∧
    (Instr.encode enc4 v22).wf = true ∧ (Instr.decode ⟨0, 0⟩).wf = true ∧
    (Instr.k2SensorEnable .proximity 5 6 0x27).wf = true ∧ (Instr.write16 0 15 v16).wf = false ∧
    (Instr.encode enc4 ⟨0, 21⟩).wf = false ∧ (Instr.encode enc14 v22).wf = false := by decide

/-- A transaction that has returned keeps nothing of its request (10_state.md R39, 20_memory.md R71). -/
theorem test_returned_keeps_no_request : ∃ t, step (State.reset.withFetchWord 8 0x8) = .next t ∧ t.req = none ∧
    t.rsp.count = some 6 := ⟨_, rfl, rfl, rfl⟩

theorem test_witness_ReadersChangeOnlyTheResponse : (∃ t, exec (.read16 0 v16) State.reset = .next t) ∧
    (∃ t, exec (.crc8 0 16 v16) State.reset = .next t) ∧ (∃ t, exec (.decode v16) State.reset = .next t) ∧
    ∃ t, exec (.k10SensorDataUnknown 0 0 0x33) State.reset = .next t := ⟨⟨_, rfl⟩, ⟨_, rfl⟩, ⟨_, rfl⟩, ⟨_, rfl⟩⟩

theorem test_witness_NothingOutsideTheViewIsWritten : ∃ r t, (Instr.write16 1 14 v16).parts = .inl r ∧
    exec (.write16 1 14 v16) State.reset = .next t := ⟨_, _, rfl, rfl⟩

/-- The three outcomes, on the two states of `test_witness_sameView`. -/
theorem test_witness_OutcomeDependsOnRequestAndViewAlone :
    (∃ r t, (Instr.read16 0 ⟨0, 5⟩).parts = .inl r ∧
      exec (.read16 0 ⟨0, 5⟩) (withBytes [1, 1, 5, 6, 0x27]) = .next t) ∧
    exec (.read16 4 ⟨0, 5⟩) (withBytes [1, 1, 5, 6, 0x27]) = .fault .range ∧
    exec (.encode enc14 ⟨0, 5⟩) (withBytes [1, 1, 5, 6, 0x27]) = .refused .illFormedMessage := ⟨⟨_, _, rfl, rfl⟩, rfl, rfl⟩

theorem test_witness_OnlyDecodeReportsErrors : ∃ t, exec (.write16 1 14 v16) State.reset = .next t ∧
    (Instr.write16 1 14 v16).frame? = none ∧ ∀ view, Instr.write16 1 14 v16 ≠ .decode view :=
  ⟨_, rfl, rfl, fun _ h => by cases h⟩

theorem test_witness_CountFitsOffsetWidth : ∃ r t, (Instr.write16 1 1 ⟨0, 3⟩).parts = .inl r ∧ r.view.fits 2 ∧
    exec (.write16 1 1 ⟨0, 3⟩) State.reset = .next t ∧ t.rsp.count = some 2 :=
  ⟨_, _, rfl, by simp [View.fits], rfl, rfl⟩

/-- Ready to run one event. -/
def ready (e : Event) : State := { State.reset with program := [e], running := [⟨22, 4⟩], writing := [⟨26, 4⟩] }

/-- The request of INT-1, on a view next to one in use. -/
def request1 : Request := ⟨0x1, some 0x1234, some 0, none, none, v22⟩

theorem test_witness_StepRunsTheDecodedRequest : (ready (.request request1)).program = .request request1 :: [] ∧
    decode (.request request1) = .ok (.write16 0x1234 0 v22) ∧
    (ready (.request request1)).viewShared request1.view = false := by decide

/-- Each of its three outcomes, of a request that is taken in. -/
theorem test_witness_StepRunsTheDecodedRequest_outcomes (s : State) :
    (∃ t, exec (.write16 0x1234 0 v22) s = .next t) ∧
    (decode (.request { request1 with off := some 21 }) = .ok (.write16 0x1234 21 v22) ∧
      exec (.write16 0x1234 21 v22) s = .fault .range) ∧
    decode (.request ⟨0x8, none, none, none, some enc14, v22⟩) = .ok (.encode enc14 v22) ∧
      exec (.encode enc14 v22) s = .refused .illFormedMessage :=
  ⟨⟨_, rfl⟩, ⟨by decide, rfl⟩, by decide, rfl⟩

theorem test_witness_StepRunsTheDecodedFrame : ∃ (s : State) (r : Request), s.program = .request r :: [] ∧ r.op = 0x9 ∧
    decode (.frame (s.bytesAt r.view 0 r.view.len)) = .ok (.k2SensorEnable .proximity 5 6 0x27) ∧
    s.viewShared r.view = false :=
  ⟨{ withBytes [1, 1, 5, 6, 0x27, 0xAA] with program := [.request (zeroRequest 0x9)] }, zeroRequest 0x9, rfl, rfl,
    by decide, by decide⟩

/-- Both sides: the view's last byte shared, and the byte after it. -/
theorem test_witness_SharedBuffersAreRefused :
    step { ready (.request request1) with running := [⟨21, 1⟩] } = .refused .sharedBuffer ∧
    step { ready (.request request1) with writing := [⟨21, 1⟩] } = .refused .sharedBuffer ∧
    (ready (.request request1)).viewShared v22 = false ∧
    (ready (.request { request1 with view := ⟨22, 0⟩ })).viewShared ⟨22, 0⟩ = false :=
  ⟨rfl, rfl, by decide, by decide⟩

/-- Both outcomes for each register. -/
theorem test_witness_UnwrittenResponseFaults : ∀ reg ∈ [RspReg.status, .value, .count, .msg],
    step (ready (.read reg)) = .fault .unwritten ∧
    ∃ r t, step { ready (.read reg) with rsp := r } = .next t := by
  intro reg h
  cases reg
  · exact ⟨rfl, okCount 2, _, rfl⟩
  · exact ⟨rfl, okValue 2, _, rfl⟩
  · exact ⟨rfl, okCount 2, _, rfl⟩
  · exact ⟨rfl, okMessage enc4 5, _, rfl⟩

theorem test_witness_ResetDuringTransactionLeavesAPrefix : ∃ t : State,
    (ready (.cutByReset request1)).program = .cutByReset request1 :: [] ∧
    decode (.request request1) = .ok (.write16 0x1234 0 v22) ∧
    (ready (.cutByReset request1)).viewShared request1.view = false ∧
    exec (.write16 0x1234 0 v22) { ready (.cutByReset request1) with program := [], req := some request1 } = .next t :=
  ⟨_, rfl, by decide, by decide, rfl⟩

theorem test_witness_ResetLeavesRegistersWithoutValue : (ready .reset).program = .reset :: [] := rfl

/-- The running view's first and last byte, and the bytes beside it; the byte above it is one other agents write. -/
theorem test_witness_StoresIntoRunningViewsAreRefused :
    refusalIn (step (ready (.store 22 0xAA))) = some .sharedBuffer ∧
    refusalIn (step (ready (.store 25 0xAA))) = some .sharedBuffer ∧
    refusalIn (step (ready (.store 21 0xAA))) = none ∧ refusalIn (step (ready (.store 26 0xAA))) = none := by decide

/-- Two running views that share a byte; a written range in a running view; neighbours; two written ranges alone. -/
theorem test_witness_SchedulesThatBreakADutyAreRefused :
    refusalIn (step (ready (.others [⟨0, 4⟩, ⟨3, 4⟩] []))) = some .sharedBuffer ∧
    refusalIn (step (ready (.others [⟨0, 4⟩] [⟨3, 1⟩]))) = some .sharedBuffer ∧
    refusalIn (step (ready (.others [⟨0, 4⟩, ⟨4, 4⟩] [⟨8, 1⟩]))) = none ∧
    refusalIn (step (ready (.others [] [⟨0, 4⟩, ⟨3, 4⟩]))) = none := by decide

theorem test_witness_SurroundingsStep : (ready (.store 26 0xAA)).program = .store 26 0xAA :: [] ∧
    (∀ v ∈ (ready (.store 26 0xAA)).running, ¬(v.base ≤ 26 ∧ 26 < v.base + v.len)) ∧
    (ready (.others [⟨0, 4⟩, ⟨4, 4⟩] [⟨8, 1⟩])).program = .others [⟨0, 4⟩, ⟨4, 4⟩] [⟨8, 1⟩] :: [] ∧
    Duties [⟨0, 4⟩, ⟨4, 4⟩] [⟨8, 1⟩] ∧ State.reset.program = [] :=
  ⟨rfl, by decide, rfl, (dutiesKept_iff _ _).1 (by decide), rfl⟩

theorem test_witness_StepKeepsInvariant : ∃ t, (ready (.request request1)).Inv ∧ step (ready (.request request1)) = .next t :=
  ⟨_, ⟨rfl, by decide, Sound_empty, (dutiesKept_iff _ _).1 (by decide)⟩, rfl⟩

end Sys2Proof.Tests
end

/-! PROOF. A step whose next event is a request (00_scope.md R7, 10_state.md R22). -/

namespace Sys2Proof.Machine

/-- A request decodes exactly as its selector and operands do; `decode` only renames the reason of a rejection. -/
theorem decode_request_eq_ok {r : Request} {i : Instr} : decode (.request r) = .ok i ↔ decodeRequest r = .ok i := by
  simp only [decode]
  cases decodeRequest r <;> simp

/-- The transaction of a request that is taken in: its instruction runs with the request issued, and returns. -/
theorem runRequest_of_accept {s : State} {r : Request} {i : Instr} (h : (s.issue r).accept r = .ok i) :
    runRequest s r = returned (exec i (s.issue r)) := by
  simp only [runRequest, h]

/-- One step on an event takes it off the program and runs it. -/
theorem step_of_program_cons {s : State} {e : Event} {rest : List Event} (h : s.program = e :: rest) :
    step s = runEvent { s with program := rest } e := by
  simp only [step, h]

/-- A step on a request that decodes, and whose view no one else uses, is that request's transaction. -/
theorem step_of_decoded_request {s : State} {r : Request} {rest : List Event} {i : Instr}
    (hprogram : s.program = .request r :: rest) (hdecode : decode (.request r) = .ok i)
    (hview : s.viewShared r.view = false) :
    step s = returned (exec i { s with program := rest, req := some r }) := by
  have haccept : (State.issue { s with program := rest } r).accept r = .ok i :=
    accept_eq_ok.2 ⟨decode_request_eq_ok.1 hdecode, hview⟩
  calc step s = runRequest { s with program := rest } r := step_of_program_cons hprogram
    _ = returned (exec i (State.issue { s with program := rest } r)) := runRequest_of_accept haccept

/-- Settles O47: the step is the transaction of the decoded request, and a transaction returns the outcome of its
instruction, with the request released where there is a next state. -/
theorem stepRunsTheDecodedRequest : Obligations.StepRunsTheDecodedRequest := by
  intro s r rest i hprogram hdecode hview
  rw [step_of_decoded_request hprogram hdecode hview]
  refine ⟨fun t hnext => ?_, fun f hfault => ?_, fun q hrefused => ?_⟩
  · exact returned_eq_next.2 ⟨t, hnext, rfl⟩
  · rw [hfault, returned]
  · rw [hrefused, returned]

end Sys2Proof.Machine

/-! PROOF. The invariant every step keeps (10_state.md R23, R28, R39; 20_memory.md R66, R71; log entries 1, 11, 14). -/

namespace Sys2Proof.Machine

/-- The invariant says nothing of what happens next. -/
theorem inv_program {s : State} (h : s.Inv) (rest : List Event) : State.Inv { s with program := rest } :=
  ⟨h.reqReleased, h.memWf, h.rspSound, h.duties⟩

/-- A transaction that completes and returns keeps the invariant, whatever its instruction wrote and answered. -/
theorem inv_release_of_exec {s t : State} {r : Request} {i : Instr} (h : s.Inv) (ht : exec i (s.issue r) = .next t) :
    t.release.Inv := by
  obtain ⟨hchange, hsound⟩ := exec_next ht
  have hmem : t.mem = Memory.writeBytes s.mem (plannedWrites i).1 (plannedWrites i).2 := congrArg State.mem hchange
  have hrunning : t.running = s.running := by simpa using congrArg State.running hchange
  have hwriting : t.writing = s.writing := by simpa using congrArg State.writing hchange
  refine ⟨rfl, ?_, hsound, ?_⟩
  · rw [release_mem, hmem]; exact Memory.wf_writeBytes h.memWf _ _
  · rw [release_running, release_writing, hrunning, hwriting]; exact h.duties

/-- A store keeps the invariant. -/
theorem inv_callerStore {s : State} (h : s.Inv) (x : Nat) (b : Byte) : (s.callerStore x b).Inv :=
  ⟨h.reqReleased, Memory.wf_write h.memWf x b, h.rspSound, h.duties⟩

/-- A change of the ranges in use keeps the invariant where it breaks no duty. -/
theorem inv_setOthers {s : State} {running writing : List View} (h : s.Inv)
    (hkept : dutiesKept running writing = true) : (s.setOthers running writing).Inv :=
  ⟨h.reqReleased, h.memWf, h.rspSound, (dutiesKept_iff _ _).1 hkept⟩

/-- Reset between transactions keeps the invariant. -/
theorem inv_resetRegisters {s : State} (h : s.Inv) : s.resetRegisters.Inv := ⟨rfl, h.memWf, Sound_empty, h.duties⟩

/-- A transaction that reset cuts off keeps the invariant, however many of its bytes it has written. -/
theorem inv_cutShort_issue {s : State} (h : s.Inv) (r : Request) (i : Instr) : (cutShort i (s.issue r)).Inv :=
  ⟨rfl, Memory.wf_writeBytes h.memWf _ _, Sound_empty, h.duties⟩

/-- Settles O56: a step that goes on waits or runs one event, and each event keeps the invariant. -/
theorem stepKeepsInvariant : Obligations.StepKeepsInvariant := by
  intro s t hinv hstep
  rcases step_next hstep with ⟨-, rfl⟩ | ⟨e, rest, -, hevent⟩
  · exact hinv
  have hinv := inv_program hinv rest
  obtain ⟨r, i, t', -, ht', rfl⟩ | ⟨reg, -, rfl⟩ | ⟨x, b, -, rfl⟩ | ⟨running, writing, -, hkept, rfl⟩ | ⟨-, rfl⟩ |
    ⟨r, i, -, rfl⟩ := hevent
  · exact inv_release_of_exec hinv ht'
  · exact hinv
  · exact inv_callerStore hinv x b
  · exact inv_setOthers hinv hkept
  · exact inv_resetRegisters hinv
  · exact inv_cutShort_issue hinv r i

/-- Settles O57: the registers hold no value, and the storage and the two lists of ranges are empty. -/
theorem resetMeetsInvariant : Obligations.ResetMeetsInvariant where
  reqReleased := rfl
  memWf := ⟨List.Pairwise.nil, List.forall_mem_nil _⟩
  rspSound := Sound_empty
  duties := ⟨List.Pairwise.nil, List.forall_mem_nil _⟩

end Sys2Proof.Machine

/-! PROOF. A transaction's outcome depends on the request and the view's bytes alone (10_state.md R21). -/

namespace Sys2Proof.Machine

/-- Two outcomes a transaction on `view` cannot tell apart: two next states with the same response and the same bytes in
the view, or one reason to stop. -/
inductive AlikeOn (view : View) : Host.Outcome State Fault Refusal → Host.Outcome State Fault Refusal → Prop
  | next {t t' : State} (hrsp : t'.rsp = t.rsp) (hview : sameView view t t') : AlikeOn view (.next t) (.next t')
  | fault (f : Fault) : AlikeOn view (.fault f) (.fault f)
  | refused (q : Refusal) : AlikeOn view (.refused q) (.refused q)

section
variable {view : View} {s s' : State} {off n : Nat}

/-- What one of two alike outcomes is, the other is too. -/
theorem AlikeOn.transfer {o o' : Host.Outcome State Fault Refusal} (h : AlikeOn view o o') :
    (∀ t, o = .next t → ∃ t', o' = .next t' ∧ t'.rsp = t.rsp ∧ sameView view t t') ∧
    (∀ f, o = .fault f → o' = .fault f) ∧ ∀ q, o = .refused q → o' = .refused q := by
  cases h with
  | next hrsp hview =>
    refine ⟨fun t ht => ?_, fun _ hf => (nomatch hf), fun _ hq => (nomatch hq)⟩
    cases ht
    exact ⟨_, rfl, hrsp, hview⟩
  | fault f => exact ⟨fun _ ht => (nomatch ht), fun _ hf => hf, fun _ hq => (nomatch hq)⟩
  | refused q => exact ⟨fun _ ht => (nomatch ht), fun _ hf => (nomatch hf), fun _ hq => hq⟩

/-- Guarded operations are alike where what they leave in range is. -/
theorem alikeOn_guarded {k k' : State} (h : off + n ≤ view.len → AlikeOn view (.next k) (.next k')) :
    AlikeOn view (guarded view off n k) (guarded view off n k') := by
  by_cases hin : off + n ≤ view.len
  · rw [guarded_of_le k hin, guarded_of_le k' hin]; exact h hin
  · rw [guarded_of_not_le k hin, guarded_of_not_le k' hin]; exact .fault .range

variable (h : sameView view s s')
include h

/-- The same bytes written to equal views leave equal views. -/
theorem sameView_storeBytes (off : Nat) (bs : List Byte) :
    sameView view (s.storeBytes view off bs) (s'.storeBytes view off bs) := fun o ho => by
  rw [byteAt_storeBytes, byteAt_storeBytes, h o ho]

theorem load16_congr (hin : off + 2 ≤ view.len) : s.load16 view off = s'.load16 view off := by
  simp only [State.load16, memRead16]
  rw [h off (by omega), h (off + 1) (by omega)]

theorem load32_congr (hin : off + 4 ≤ view.len) : s.load32 view off = s'.load32 view off := by
  simp only [State.load32, memRead32]
  rw [h off (by omega), h (off + 1) (by omega), h (off + 2) (by omega), h (off + 3) (by omega)]

theorem load64_congr (hin : off + 8 ≤ view.len) : s.load64 view off = s'.load64 view off := by
  simp only [State.load64, memRead64]
  rw [h off (by omega), h (off + 1) (by omega), h (off + 2) (by omega), h (off + 3) (by omega), h (off + 4) (by omega),
    h (off + 5) (by omega), h (off + 6) (by omega), h (off + 7) (by omega)]

theorem bytesAt_congr (hin : off + n ≤ view.len) : s.bytesAt view off n = s'.bytesAt view off n :=
  List.map_congr_left fun k hk => h (off + k) (by have := List.mem_range.1 hk; omega)

/-- Equal responses over equal views are alike. -/
theorem alikeOn_reply {r r' : Response} (hr : r = r') : AlikeOn view (.next (s.reply r)) (.next (s'.reply r')) :=
  .next hr.symm h

/-- The same bytes and response written over equal views are alike. -/
theorem alikeOn_storeBytes_reply (off : Nat) (bs : List Byte) (r : Response) :
    AlikeOn view (.next ((s.storeBytes view off bs).reply r)) (.next ((s'.storeBytes view off bs).reply r)) :=
  alikeOn_reply (sameView_storeBytes h off bs) rfl

/-- ENCODE is refused or faults by its operands alone, and else writes a frame that depends on the Message alone. -/
theorem execEncode_alikeOn (msg : Message) : AlikeOn view (execEncode msg view s) (execEncode msg view s') := by
  unfold execEncode
  split
  · split
    · exact .fault .capacity
    · exact alikeOn_storeBytes_reply h 0 _ _
  · exact .refused .illFormedMessage

/-- DECODE looks at the bytes of the view alone (20_memory.md R57). -/
theorem execDecode_alikeOn : AlikeOn view (execDecode view s) (execDecode view s') :=
  alikeOn_reply h (decodeResponse_congr _ h)

end

/-- An operation on equal views has outcomes alike. -/
theorem exec_alikeOn {i : Instr} {r : Request} {s s' : State} (hi : i.parts = .inl r) (h : sameView r.view s s') :
    AlikeOn r.view (exec i s) (exec i s') := by
  cases i <;> simp only [Instr.parts, reduceCtorEq, Sum.inl.injEq] at hi <;> subst hi
  case write16 => exact alikeOn_guarded fun _ => alikeOn_storeBytes_reply h _ _ _
  case write32 => exact alikeOn_guarded fun _ => alikeOn_storeBytes_reply h _ _ _
  case write64 => exact alikeOn_guarded fun _ => alikeOn_storeBytes_reply h _ _ _
  case read16 => exact alikeOn_guarded fun hin => alikeOn_reply h (by rw [load16_congr h hin])
  case read32 => exact alikeOn_guarded fun hin => alikeOn_reply h (by rw [load32_congr h hin])
  case read64 => exact alikeOn_guarded fun hin => alikeOn_reply h (by rw [load64_congr h hin])
  case crc8 => exact alikeOn_guarded fun hin => alikeOn_reply h (by rw [bytesAt_congr h hin])
  case encode msg _ => exact execEncode_alikeOn h msg
  case decode => exact execDecode_alikeOn h

/-- Settles O44: outcomes alike are of the same kind, with equal responses and views or equal reasons to stop. -/
theorem outcomeDependsOnRequestAndViewAlone : Obligations.OutcomeDependsOnRequestAndViewAlone :=
  fun _ _ _ _ hparts hview => (exec_alikeOn hparts hview).transfer

end Sys2Proof.Machine

/-! PROOF. The tag codes and well-formed Messages (10_state.md R30 to R37). -/

namespace Sys2Proof

/-- Settles O5: the bound of each tag space is a law of its code map, and each listed code is looked up. -/
theorem tagCodes : Obligations.TagCodes :=
  ⟨messageTypeOf_eq_none, sensorTypeOf_eq_none, actuatorTypeOf_eq_none, errorCodeOf_eq_none, rfl, rfl, rfl, rfl⟩

/-- The space a type selects (10_state.md R36): actuators for ACTUATOR, sensors for every other type. -/
theorem inSpace_iff (t : MessageType) (s : MsgSubtype) :
    s.inSpace t = true ↔ ((∃ a, s = .actuator a) ↔ t = .actuator) := by
  cases s with
  | sensor s => simp [MsgSubtype.inSpace]
  | actuator a => simp [MsgSubtype.inSpace]

/-- Settles O23: the check's two clauses are the two the rule lists. -/
theorem wellFormedMessage : Obligations.WellFormedMessage := fun m => by
  rw [wf_iff, inSpace_iff]

end Sys2Proof

/-! PROOF. Reads of the response registers (10_state.md R23) and what reset leaves in them (R40; log entry 18). -/

namespace Sys2Proof.Machine

/-- What a response register holds, if anything. -/
def Response.held (r : Response) : RspReg → Option RspVal
  | .status => r.status.map .status
  | .value => r.value.map .value
  | .count => r.count.map .count
  | .msg => r.msg.map .msg

@[simp] theorem held_empty (reg : RspReg) : Response.held {} reg = none := by cases reg <;> rfl

/-- A read of a response register gives what it holds. -/
theorem readResponse_eq (s : State) (reg : RspReg) :
    s.readResponse reg = (s.rsp.held reg).elim (.error .unwritten) .ok := by
  cases reg <;> simp only [State.readResponse, Response.held] <;> split <;> simp [*]

theorem afterRead_of_held_eq_none {s : State} {reg : RspReg} (h : s.rsp.held reg = none) :
    s.afterRead reg = .fault .unwritten := by
  simp [State.afterRead, readResponse_eq, h]

theorem afterRead_of_held_eq_some {s : State} {reg : RspReg} {v : RspVal} (h : s.rsp.held reg = some v) :
    s.afterRead reg = .next s := by
  simp [State.afterRead, readResponse_eq, h]

/-- Settles O50: the step is the read, which faults or changes nothing by what the register holds. -/
theorem unwrittenResponseFaults : Obligations.UnwrittenResponseFaults := by
  intro s reg rest hprogram
  rw [step_of_program_cons hprogram]
  cases hheld : s.rsp.held reg with
  | none =>
    refine .inl ⟨?_, afterRead_of_held_eq_none hheld⟩
    cases reg <;> simpa [Response.held] using hheld
  | some v =>
    refine .inr ⟨?_, afterRead_of_held_eq_some hheld⟩
    cases reg <;> intro hnone <;> simp [Response.held, hnone] at hheld

/-- Settles O52: State.reset and a reset between transactions leave every register empty, so each read faults. -/
theorem resetLeavesRegistersWithoutValue : Obligations.ResetLeavesRegistersWithoutValue := by
  refine ⟨rfl, rfl, fun reg rest => ?_, fun s rest hprogram => ?_⟩
  · exact afterRead_of_held_eq_none (held_empty reg)
  · exact step_of_program_cons hprogram

end Sys2Proof.Machine


/-! PROOF. What other agents use is kept apart from a transaction and from a store (20_memory.md R66,
70_reset_and_hazards.md R266). -/

namespace Sys2Proof.Machine

/-! ### What is refused as shared -/

/-- The guard faults or lets through; it refuses nothing. -/
theorem guarded_ne_refused {view : View} {off n : Nat} {k : State} {q : Refusal} :
    guarded view off n k ≠ .refused q := by
  unfold guarded
  split <;> exact nofun

/-- An instruction refuses nothing but an ill-formed Message. -/
theorem exec_eq_refused {i : Instr} {s : State} {q : Refusal} (h : exec i s = .refused q) :
    q = .illFormedMessage := by
  cases hf : i.frame? with
  | some f =>
    rw [exec_frame? hf] at h
    cases h
  | none =>
    cases i <;> simp only [Instr.frame?, Instr.parts, reduceCtorEq] at hf
    case encode msg view =>
      simp only [exec, execEncode] at h
      split at h
      · split at h <;> cases h
      · cases h
        rfl
    case decode => cases h
    all_goals exact (guarded_ne_refused h).elim

/-- A transaction is refused exactly where its instruction is, for the same reason. -/
theorem returned_eq_refused {o : Host.Outcome State Fault Refusal} {q : Refusal} :
    returned o = .refused q ↔ o = .refused q := by
  cases o <;> simp [returned]

/-- A request that selects an operation is not taken in where its view is shared. -/
theorem runRequest_of_viewShared {s : State} {r : Request} {i : Instr} (hdecode : decodeRequest r = .ok i)
    (hview : s.viewShared r.view = true) : runRequest s r = .refused .sharedBuffer := by
  have haccept : (s.issue r).accept r = .error .sharedBuffer := by
    simp only [State.accept, hdecode]
    exact if_pos hview
  simp only [runRequest, haccept]

/-- Settles O49: a request on a shared view is not taken in, and a request that is taken in runs its instruction,
which never refuses a shared buffer. -/
theorem sharedBuffersAreRefused : Obligations.SharedBuffersAreRefused := by
  intro s r rest i hprogram hdecode
  rw [← viewShared_iff]
  constructor
  · intro hview
    rw [step_of_program_cons hprogram]
    exact runRequest_of_viewShared (decode_request_eq_ok.1 hdecode) hview
  · intro hrefused
    by_contra hview
    rw [step_of_decoded_request hprogram hdecode (by simpa using hview), returned_eq_refused] at hrefused
    cases exec_eq_refused hrefused

/-- A change of the ranges in use is refused exactly where it breaks a duty. -/
theorem afterOthers_eq_refused {s : State} {running writing : List View} :
    s.afterOthers running writing = .refused .sharedBuffer ↔ ¬Duties running writing := by
  rw [← dutiesKept_iff]
  unfold State.afterOthers
  split <;> simp [*]

/-- Settles O54: the step is the change of the ranges, refused where a duty is broken. -/
theorem schedulesThatBreakADutyAreRefused : Obligations.SchedulesThatBreakADutyAreRefused := by
  intro s running writing rest hprogram
  rw [step_of_program_cons hprogram]
  exact afterOthers_eq_refused.symm

/-- A view meets the view of one byte where it holds that byte's address. -/
theorem viewsMeet_byte (x : Nat) (v : View) :
    viewsMeet ⟨x, 1⟩ v = true ↔ v.base ≤ x ∧ x < v.base + v.len := by
  simp only [viewsMeet, decide_eq_true_eq]
  omega

/-- A store is refused exactly where a running transaction's view holds its address. -/
theorem afterStore_eq_refused {s : State} {x : Nat} {b : Byte} :
    s.afterStore x b = .refused .sharedBuffer ↔ ∃ v ∈ s.running, v.base ≤ x ∧ x < v.base + v.len := by
  simp only [← viewsMeet_byte, ← List.any_eq_true]
  unfold State.afterStore
  split <;> simp [*]

/-- Settles O53: the step is the store, refused where a running transaction's view holds its address. -/
theorem storesIntoRunningViewsAreRefused : Obligations.StoresIntoRunningViewsAreRefused := by
  intro s x b rest hprogram
  rw [step_of_program_cons hprogram]
  exact (afterStore_eq_refused (s := { s with program := rest })).symm

/-! ### The surroundings, where no duty is broken -/

/-- A store leaves every byte but its own. -/
theorem sameOutside_callerStore (s : State) (x : Nat) (b : Byte) : sameOutside s (s.callerStore x b) x 1 := by
  intro a ha
  rw [callerStore_mem, Memory.read_write, if_neg (by omega)]

/-- With an empty program the core waits (log entry 4). -/
theorem step_of_program_nil {s : State} (h : s.program = []) : step s = .next s := by
  simp only [step, h]

/-- Settles O55: each event goes on where it breaks no duty, and its update is the one stated. -/
theorem surroundingsStep : Obligations.SurroundingsStep := by
  refine ⟨fun s x b rest hprogram houtside => ?_, fun s running writing rest hprogram hduties => ?_,
    fun s => step_of_program_nil⟩
  · refine ⟨State.callerStore { s with program := rest } x b, ?_, ?_, sameOutside_callerStore _ x b, rfl, rfl, rfl,
      rfl, rfl, rfl⟩
    · rw [step_of_program_cons hprogram]
      exact afterStore_eq_next.2 ⟨houtside, rfl⟩
    · rw [callerStore_mem, Memory.read_write, if_pos rfl]
  · rw [step_of_program_cons hprogram]
    exact afterOthers_eq_next.2 ⟨(dutiesKept_iff _ _).2 hduties, rfl⟩

end Sys2Proof.Machine

/-! PROOF. What a transaction reads, writes and counts, against its view (20_memory.md R51 to R62). -/

namespace Sys2Proof.Machine

/-! ### The bytes an instruction writes -/

/-- The readers write no byte (20_memory.md R59, R60). -/
theorem plannedWrites_of_reader {i : Instr} (h16 : ∀ v off view, i ≠ .write16 v off view)
    (h32 : ∀ v off view, i ≠ .write32 v off view) (h64 : ∀ v off view, i ≠ .write64 v off view)
    (hencode : ∀ m view, i ≠ .encode m view) : (plannedWrites i).2 = [] := by
  cases i with
  | write16 v off view => exact (h16 v off view rfl).elim
  | write32 v off view => exact (h32 v off view rfl).elim
  | write64 v off view => exact (h64 v off view rfl).elim
  | encode m view => exact (hencode m view rfl).elim
  | _ => rfl

/-- Settles O42: an instruction writes its planned bytes and the response, and a reader plans none. -/
theorem readersChangeOnlyTheResponse : Obligations.ReadersChangeOnlyTheResponse := by
  intro i s t h16 h32 h64 hencode hnext
  have hchange := (exec_next hnext).1
  rw [plannedWrites_of_reader h16 h32 h64 hencode] at hchange
  exact hchange

/-- An instruction leaves everything but storage and the response. -/
theorem sameRest_of_exec {i : Instr} {s t : State} (h : exec i s = .next t) : sameRest s t := by
  rw [(exec_next h).1]
  exact ⟨rfl, rfl, rfl, rfl, rfl⟩

/-- An instruction leaves every byte it does not plan to write. -/
theorem read_of_exec {i : Instr} {s t : State} (h : exec i s = .next t) {a : Nat}
    (ha : ¬((plannedWrites i).1 ≤ a ∧ a < (plannedWrites i).1 + (plannedWrites i).2.length)) :
    Memory.read t.mem a = Memory.read s.mem a := by
  have hmem : t.mem = Memory.writeBytes s.mem (plannedWrites i).1 (plannedWrites i).2 :=
    congrArg State.mem (exec_next h).1
  rw [hmem, Memory.read_writeBytes, if_neg ha]

/-- No payload is longer than SBUS's (30_encoding.md R101). -/
theorem payloadLen_le (t : MessageType) (s : MsgSubtype) : payloadLen t s ≤ 17 := by
  unfold payloadLen
  cases shape t s <;> decide

/-- What an operation that completes writes lies in its view: the guard or the capacity check says so. -/
theorem plannedWrites_in_view {i : Instr} {r : Request} {s t : State} (hi : i.parts = .inl r)
    (h : exec i s = .next t) {a : Nat} (hlo : (plannedWrites i).1 ≤ a)
    (hhi : a < (plannedWrites i).1 + (plannedWrites i).2.length) :
    r.view.base ≤ a ∧ a < r.view.base + r.view.len := by
  cases i <;> simp only [Instr.parts, reduceCtorEq, Sum.inl.injEq] at hi <;> subst hi <;>
    simp only [plannedWrites] at hlo hhi ⊢
  case write16 | write32 | write64 =>
    have hin := (guarded_eq_next.1 h).1
    simp only [bytes16, bytes32, bytes64, List.length_cons, List.length_nil] at hhi
    omega
  case encode m view =>
    obtain ⟨hwf, hcapacity, -⟩ := execEncode_eq_next.1 h
    have hlen := payloadLen_le m.type m.subtype
    rw [length_frameBytes _ hwf] at hhi
    omega
  all_goals exact absurd hhi (Nat.not_lt_zero a)

/-- Settles O43: an operation leaves what it does not plan to write, and plans no byte outside its view. -/
theorem nothingOutsideTheViewIsWritten : Obligations.NothingOutsideTheViewIsWritten := by
  intro i r s t hparts hnext
  refine ⟨fun a ha => read_of_exec hnext fun hwritten => ?_, sameRest_of_exec hnext⟩
  have hin := plannedWrites_in_view hparts hnext hwritten.1 hwritten.2
  omega

/-! ### The byte count -/

/-- DECODE counts bytes only behind a status `OK`, and consumes them from its view. -/
theorem count_decodeResponse_le {table : Byte → Byte} {len k : Nat} {rd : Nat → Byte}
    (h : (decodeResponse table len rd).count = some k) : k ≤ len := by
  have hok : (decodeResponse table len rd).status = some .ok := by
    by_contra hne
    obtain ⟨-, hcount, -⟩ := (Sound_decodeResponse table len rd).onlyOk hne
    rw [hcount] at h
    cases h
  obtain ⟨m, -, hlen, -, hresponse⟩ := decodeResponse_ok hok
  rw [hresponse, okMessage, Option.some.injEq] at h
  omega

/-- A byte count is never more than the view's length. -/
theorem count_le_len {i : Instr} {r : Request} {s t : State} {k : Nat} (hi : i.parts = .inl r)
    (h : exec i s = .next t) (hk : t.rsp.count = some k) : k ≤ r.view.len := by
  cases i <;> simp only [Instr.parts, reduceCtorEq, Sum.inl.injEq] at hi <;> subst hi
  case encode m view =>
    obtain ⟨-, hcapacity, rfl⟩ := execEncode_eq_next.1 h
    have hlen := payloadLen_le m.type m.subtype
    rw [reply_rsp, okCount, Option.some.injEq] at hk
    show k ≤ view.len
    omega
  case decode view =>
    cases h
    exact count_decodeResponse_le hk
  case write16 | write32 | write64 =>
    obtain ⟨hin, rfl⟩ := guarded_eq_next.1 h
    cases hk
    exact (Nat.le_add_left _ _).trans hin
  case read16 | read32 | read64 | crc8 =>
    obtain ⟨-, rfl⟩ := guarded_eq_next.1 h
    cases hk

/-- Settles O46: a count is at most `LEN`, which is below `2^w`. -/
theorem countFitsOffsetWidth : Obligations.CountFitsOffsetWidth :=
  fun _ _ _ _ _ _ hparts hfits hnext hcount => (count_le_len hparts hnext hcount).trans_lt hfits

/-! ### The bytes a READ or DECODE reads -/

/-- Settles O27: DECODE's response is a function of the bytes of the view. -/
theorem decodeReadsInsideView : Obligations.DecodeReadsInsideView := by
  intro view s s' hview
  refine ⟨decodeResponse Config.crc8Table view.len (s.byteAt view), rfl, ?_⟩
  rw [decodeResponse_congr _ hview]
  rfl

section
variable {s t : State} {view : View} {off k : Nat} {bs : List Byte}

/-- Inside bytes just written, a view holds them. -/
theorem byteAt_storeBytes_add (hk : k < bs.length) :
    (s.storeBytes view off bs).byteAt view (off + k) = sourceOf bs k := by
  rw [byteAt_storeBytes, if_pos (by omega), Nat.add_sub_cancel_left]
  rfl

theorem load16_storeBytes (hk : k + 2 ≤ bs.length) :
    (s.storeBytes view off bs).load16 view (off + k) = memRead16 (sourceOf bs) k := by
  simp only [State.load16, memRead16, Nat.add_assoc]
  rw [byteAt_storeBytes_add (by omega), byteAt_storeBytes_add (by omega)]

theorem load32_storeBytes (hk : k + 4 ≤ bs.length) :
    (s.storeBytes view off bs).load32 view (off + k) = memRead32 (sourceOf bs) k := by
  simp only [State.load32, memRead32, Nat.add_assoc]
  rw [byteAt_storeBytes_add (by omega), byteAt_storeBytes_add (by omega), byteAt_storeBytes_add (by omega),
    byteAt_storeBytes_add (by omega)]

theorem exec_read16_of_le (h : off + 2 ≤ view.len) :
    exec (.read16 off view) t = .next (t.reply (okValue ((t.load16 view off).setWidth 64))) := guarded_of_le _ h

theorem exec_read32_of_le (h : off + 4 ≤ view.len) :
    exec (.read32 off view) t = .next (t.reply (okValue ((t.load32 view off).setWidth 64))) := guarded_of_le _ h

end

/-- The low half of a 32-bit value is its bytes 0 and 1 (20_memory.md R53). -/
theorem memRead16_bytes32_low (v : BitVec 32) : memRead16 (sourceOf (bytes32 v)) 0 = v.extractLsb' 0 16 :=
  BitVec.extractLsb'_append_extractLsb'_eq_extractLsb' rfl

/-- The high half of a 32-bit value is its bytes 2 and 3. -/
theorem memRead16_bytes32_high (v : BitVec 32) : memRead16 (sourceOf (bytes32 v)) 2 = v.extractLsb' 16 16 :=
  BitVec.extractLsb'_append_extractLsb'_eq_extractLsb' rfl

/-- The high half of a 64-bit value is its bytes 4 to 7. -/
theorem memRead32_bytes64_high (v : BitVec 64) : memRead32 (sourceOf (bytes64 v)) 4 = v.extractLsb' 32 32 := by
  show v.extractLsb' 56 8 ++ v.extractLsb' 48 8 ++ v.extractLsb' 40 8 ++ v.extractLsb' 32 8 = v.extractLsb' 32 32
  rw [BitVec.extractLsb'_append_extractLsb'_eq_extractLsb' (show 56 = 48 + 8 from rfl),
    BitVec.extractLsb'_append_extractLsb'_eq_extractLsb' (show 48 = 40 + 8 from rfl),
    BitVec.extractLsb'_append_extractLsb'_eq_extractLsb' (show 40 = 32 + 8 from rfl)]

/-- Settles O15: each narrower READ is in range where the WRITE was, and joins some of the bytes it wrote. -/
theorem mixedWidthReads : Obligations.MixedWidthReads := by
  intro off view s t
  refine ⟨fun v hwrite => ?_, fun v hwrite => ?_⟩ <;> obtain ⟨hin, rfl⟩ := guarded_eq_next.1 hwrite
  · constructor
    · rw [exec_read16_of_le (by omega), ← memRead16_bytes32_low, ← load16_storeBytes (by simp [bytes32])]
      rfl
    · rw [exec_read16_of_le (by omega), ← memRead16_bytes32_high, ← load16_storeBytes (by simp [bytes32])]
      rfl
  · rw [exec_read32_of_le (by omega), ← memRead32_bytes64_high, ← load32_storeBytes (by simp [bytes64])]
    rfl

end Sys2Proof.Machine

/-! PROOF. The two encodings: what the encoder writes decodes to the instruction, and what decodes is what the encoder
writes (30_encoding.md R81 to R104). -/

namespace Sys2Proof.Machine

/-! ### Decoding and encoding -/

theorem encode_of_parts_inl {i : Instr} {r : Request} (h : i.parts = .inl r) : encode i = .request r := by
  simp only [encode, h]

theorem encode_of_parts_inr {i : Instr} {f : WireFrame} (h : i.parts = .inr f) : encode i = .frame f.bytes := by
  simp only [encode, h]

/-- The row a frame is in is the row that stands for it. -/
theorem toInstr_eq_some {i : Instr} {f : WireFrame} : f.toInstr = some i ↔ i.parts = .inr f :=
  ⟨parts_of_toInstr, fun h => toInstr_of_frame? (frame?_eq_some.2 h)⟩

/-- Bytes decode to the row that stands for the frame they start with. -/
theorem decode_frame_eq_ok {bs : List Byte} {i : Instr} :
    decode (.frame bs) = .ok i ↔ ∃ f, decodeFrame bs.length (sourceOf bs) = .ok f ∧ i.parts = .inr f := by
  simp only [decode, decodeFrameInstr, ← toInstr_eq_some]
  cases decodeFrame bs.length (sourceOf bs) with
  | error e => simp
  | ok f => cases hrow : f.toInstr <;> simp [hrow]

/-- The request a row stands for selects its operation, with the operands it reads (30_encoding.md R81, R82). -/
theorem decodeRequest_of_parts {i : Instr} {r : Request} (h : i.parts = .inl r) : decodeRequest r = .ok i := by
  cases i <;> simp only [Instr.parts, reduceCtorEq, Sum.inl.injEq] at h <;> subst h
  case write16 | write32 => simp [decodeRequest]
  all_goals rfl

/-- A well-formed frame is read back from its bytes. -/
theorem decodeFrame_bytes {f : WireFrame} (h : f.message.wf = true) :
    decodeFrame f.bytes.length (sourceOf f.bytes) = .ok f :=
  (decodeFrame_ok_iff _ _ _).2 ⟨h, le_rfl, fun _ _ => rfl⟩

/-- Settles O1: a request row's registers select it, and a frame row's bytes are read back as its frame. -/
theorem decodeOfEncodeIsIdentity : Obligations.DecodeOfEncodeIsIdentity := by
  intro i
  cases hparts : i.parts with
  | inl r =>
    rw [encode_of_parts_inl hparts]
    exact decode_request_eq_ok.2 (decodeRequest_of_parts hparts)
  | inr f =>
    rw [encode_of_parts_inr hparts]
    exact decode_frame_eq_ok.2 ⟨f, decodeFrame_bytes (wf_of_frame? (frame?_eq_some.2 hparts)), hparts⟩

/-- A frame's bytes stand at the start of any bytes it is decoded from. -/
theorem bytes_prefix_of_decodeFrame {bs : List Byte} {f : WireFrame}
    (h : decodeFrame bs.length (sourceOf bs) = .ok f) : f.bytes <+: bs := by
  obtain ⟨-, hlen, hbytes⟩ := (decodeFrame_ok_iff _ _ _).1 h
  refine List.prefix_iff_getElem.2 ⟨hlen, fun o ho => ?_⟩
  have := hbytes o ho
  rw [sourceOf, List.getD_eq_getElem _ _ ho, List.getD_eq_getElem _ _ (ho.trans_le hlen)] at this
  exact this.symm

/-- Settles O2: the bytes start with those of the frame that was decoded, which the row encodes to. -/
theorem frameBytesAreEncodeOfDecode : Obligations.FrameBytesAreEncodeOfDecode := by
  intro bs i hdecode
  obtain ⟨f, hf, hparts⟩ := decode_frame_eq_ok.1 hdecode
  have hprefix := bytes_prefix_of_decodeFrame hf
  refine ⟨f.bytes.length, hprefix.length_le, ?_⟩
  rw [encode_of_parts_inr hparts, ← List.prefix_iff_eq_take.1 hprefix]

/-- Where DECODE delivers a Message, its count is the length of that Message's frame, and the frame's bytes are the
bytes read: the Message fixes them all. -/
theorem frame_of_decodeResponse_msg {table : Byte → Byte} {len : Nat} {rd : Nat → Byte} {m : Message}
    (h : (decodeResponse table len rd).msg = some m) :
    (decodeResponse table len rd).count = some (5 + payloadLen m.type m.subtype) ∧
      ∀ o < 5 + payloadLen m.type m.subtype, rd o = (frameBytes table m).getD o 0 := by
  have hok : (decodeResponse table len rd).status = some .ok := by
    by_contra hne
    obtain ⟨-, -, hmsg⟩ := (Sound_decodeResponse table len rd).onlyOk hne
    rw [hmsg] at h
    cases h
  obtain ⟨m', -, -, hbytes, hresponse⟩ := decodeResponse_ok hok
  rw [hresponse] at h ⊢
  cases h
  exact ⟨rfl, hbytes⟩

/-- Settles O29: both counts are the length of the one Message's frame, and both views start with its bytes. -/
theorem noDontCareBits : Obligations.NoDontCareBits := by
  intro view view' s s' t t' m hnext hnext' hmsg hmsg'
  cases hnext
  cases hnext'
  obtain ⟨hcount, hbytes⟩ := frame_of_decodeResponse_msg hmsg
  obtain ⟨hcount', hbytes'⟩ := frame_of_decodeResponse_msg hmsg'
  refine ⟨hcount.trans hcount'.symm, fun k hk o ho => ?_⟩
  obtain rfl : 5 + payloadLen m.type m.subtype = k := Option.some.inj (hcount.symm.trans hk)
  rw [hbytes o ho, hbytes' o ho]

/-! ### Selectors and table words -/

/-- The reserved selectors name no operation, whatever the operands (30_encoding.md R83). -/
theorem decodeRequest_of_reserved {r : Request} (h : r.op = 0x0 ∨ 0xA#4 ≤ r.op) :
    decodeRequest r = .error .reservedOp := by
  unfold decodeRequest
  split
  case h_10 => rfl
  all_goals
    next hop =>
      rw [hop] at h
      exact absurd h (by decide)

theorem runRequest_of_reserved {s : State} {r : Request} (h : r.op = 0x0 ∨ 0xA#4 ≤ r.op) :
    runRequest s r = .refused .reservedOp := by
  simp only [runRequest, State.accept, decodeRequest_of_reserved h, refusalOf]

/-- Settles O3: the request is fetched, and its selector names no operation. -/
theorem reservedSelectorsAreRefused : Obligations.ReservedSelectorsAreRefused := by
  intro s r rest hprogram hreserved
  rw [step_of_program_cons hprogram]
  exact runRequest_of_reserved hreserved

/-- Settles O4: each word is decoded. -/
theorem tableWordsDecodeAsTheSpecSays : Obligations.TableWordsDecodeAsTheSpecSays :=
  ⟨rfl, rfl, rfl, rfl, rfl, rfl, rfl, rfl, rfl, rfl⟩

/-! ### Frame sizes (30_encoding.md R99 to R101) -/

/-- The N column of the dispatch table, by type and, where the type leaves it open, by subtype. -/
theorem payloadLen_eq_payloadLenByCode {t : MessageType} {s : MsgSubtype} (h : s.inSpace t = true) :
    payloadLen t s = payloadLenByCode t.code s.code := by
  cases t
  case actuator =>
    cases s with
    | sensor s => cases h
    | actuator a => cases a <;> rfl
  case sensorData =>
    cases s with
    | sensor s => cases s <;> rfl
    | actuator a => cases h
  all_goals rfl

/-- Settles O6: the table of lengths is the case table on codes, and no payload is longer than SBUS's 17 bytes. -/
theorem frameSizes : Obligations.FrameSizes := by
  refine ⟨fun t s hspace => ⟨payloadLen_eq_payloadLenByCode hspace, rfl, ?_, ?_⟩, fun _ => rfl, rfl, rfl⟩
  · unfold frameLen
    omega
  · have := payloadLen_le t s
    unfold frameLen
    omega

/-! ### The frame kinds as instructions (log entry 5) -/

/-- A frame kind that spells a Message delivers it, with the frame's length, if its trailer is right. -/
theorem exec_of_frame?_toWire {i : Instr} {m : Message} {c : Byte} (h : i.frame? = some ⟨m.toWire, c⟩) (s : State) :
    exec i s = .next { s with
      rsp :=
        if crc8Of Config.crc8Table m.toWire.body = c
        then okMessage m (5 + payloadLen m.type m.subtype) else raised .checksumMismatch } := by
  rw [exec_frame? h, frameResponse, ofWire_toWire]
  rfl

/-- Settles O35: each kind spells the Message stated. -/
theorem headerOnlyFrameKinds : Obligations.HeaderOnlyFrameKinds := fun t id q _ s =>
  ⟨exec_of_frame?_toWire (m := ⟨.sensorEnable, .sensor t, id, q, .empty⟩) rfl s,
   exec_of_frame?_toWire (m := ⟨.sensorDisable, .sensor t, id, q, .empty⟩) rfl s,
   exec_of_frame?_toWire (m := ⟨.sensorGet, .sensor t, id, q, .empty⟩) rfl s,
   exec_of_frame?_toWire (m := ⟨.actuatorAck, .sensor t, id, q, .empty⟩) rfl s,
   exec_of_frame?_toWire (m := ⟨.sensorData, .sensor .unknown, id, q, .empty⟩) rfl s,
   exec_of_frame?_toWire (m := ⟨.sensorData, .sensor .sensorTypeEnd, id, q, .empty⟩) rfl s⟩

/-- Settles O36: K5 spells a Message whatever its operands, K1 where its code byte names an ErrorCode
(42_message_codec.md R197). -/
theorem errorAndTimeFrameKinds : Obligations.ErrorAndTimeFrameKinds := fun t id q c code micros s => by
  refine ⟨?_, exec_of_frame?_toWire (m := ⟨.time, .sensor t, id, q, .time micros⟩) rfl s⟩
  rw [exec_frame? rfl, frameResponse]
  simp only [MessageOf.ofWire, Payload.ofWire]
  cases errorCodeOf code <;> rfl

/-- Settles O37: each kind spells the Message stated. -/
theorem twoByteFrameKinds : Obligations.TwoByteFrameKinds := fun id q _ f s =>
  ⟨exec_of_frame?_toWire (m := ⟨.actuator, .actuator .servo, id, q, .servo f⟩) rfl s,
   exec_of_frame?_toWire (m := ⟨.actuator, .actuator .motor, id, q, .motor f⟩) rfl s,
   exec_of_frame?_toWire (m := ⟨.sensorData, .sensor .proximity, id, q, .proximity f⟩) rfl s,
   exec_of_frame?_toWire (m := ⟨.sensorData, .sensor .servo, id, q, .servo f⟩) rfl s,
   exec_of_frame?_toWire (m := ⟨.sensorData, .sensor .motor, id, q, .motor f⟩) rfl s⟩

/-- Settles O38: each kind spells the Message stated. -/
theorem threeAxisFrameKinds : Obligations.ThreeAxisFrameKinds := fun id q _ x y z s =>
  ⟨exec_of_frame?_toWire (m := ⟨.sensorData, .sensor .gyroscope, id, q, .gyroscope x y z⟩) rfl s,
   exec_of_frame?_toWire (m := ⟨.sensorData, .sensor .accelerometer, id, q, .accelerometer x y z⟩) rfl s,
   exec_of_frame?_toWire (m := ⟨.sensorData, .sensor .magnetometer, id, q, .magnetometer x y z⟩) rfl s,
   exec_of_frame?_toWire (m := ⟨.sensorData, .sensor .orientation, id, q, .orientation x y z⟩) rfl s⟩

/-- Settles O39: each kind spells the Message stated. -/
theorem ledMouseSbusFrameKinds : Obligations.LedMouseSbusFrameKinds := fun id q _ v x y d ch s =>
  ⟨exec_of_frame?_toWire (m := ⟨.actuator, .actuator .led, id, q, .led v⟩) rfl s,
   exec_of_frame?_toWire (m := ⟨.sensorData, .sensor .led, id, q, .led v⟩) rfl s,
   exec_of_frame?_toWire (m := ⟨.sensorData, .sensor .mouse, id, q, .mouse x y d v⟩) rfl s,
   exec_of_frame?_toWire (m := ⟨.sensorData, .sensor .sbus, id, q, .sbus ch v⟩) rfl s⟩

end Sys2Proof.Machine

/-! PROOF. The Integer Codec: what a WRITE stores, what a READ loads, and that a READ gives a WRITE's value back
(40_integer_codec.md R130 to R136). -/

namespace Sys2Proof.Machine

/-! ### The bytes of a value, in both directions (20_memory.md R53) -/

theorem sourceOf_bytes16 (v : BitVec 16) : ∀ k < 2, sourceOf (bytes16 v) k = v.extractLsb' (8 * k) 8 := by
  intro k hk
  interval_cases k <;> rfl

theorem sourceOf_bytes32 (v : BitVec 32) : ∀ k < 4, sourceOf (bytes32 v) k = v.extractLsb' (8 * k) 8 := by
  intro k hk
  interval_cases k <;> rfl

theorem sourceOf_bytes64 (v : BitVec 64) : ∀ k < 8, sourceOf (bytes64 v) k = v.extractLsb' (8 * k) 8 := by
  intro k hk
  interval_cases k <;> rfl

section
variable {rd : Nat → Byte} {o : Nat}

/-- A read of the 2 bytes of a value joins them to it. -/
theorem memRead16_eq {v : BitVec 16} (h : ∀ k < 2, rd (o + k) = v.extractLsb' (8 * k) 8) : memRead16 rd o = v := by
  rw [memRead16, h 1 (by decide), show rd o = _ from h 0 (by decide)]
  exact join16 v

/-- A read of the 4 bytes of a value joins them to it. -/
theorem memRead32_eq {v : BitVec 32} (h : ∀ k < 4, rd (o + k) = v.extractLsb' (8 * k) 8) : memRead32 rd o = v := by
  rw [memRead32, h 3 (by decide), h 2 (by decide), h 1 (by decide), show rd o = _ from h 0 (by decide)]
  exact join32 v

/-- A read of the 8 bytes of a value joins them to it. -/
theorem memRead64_eq {v : BitVec 64} (h : ∀ k < 8, rd (o + k) = v.extractLsb' (8 * k) 8) : memRead64 rd o = v := by
  rw [memRead64, h 7 (by decide), h 6 (by decide), h 5 (by decide), h 4 (by decide), h 3 (by decide),
    h 2 (by decide), h 1 (by decide), show rd o = _ from h 0 (by decide)]
  exact join64 v

end

/-! ### The WRITE operations -/

/-- The guard faults exactly where the bytes do not fit (20_memory.md R56). -/
theorem guarded_fault_and_next {view : View} {off n : Nat} (k : State) :
    (view.len < off + n → guarded view off n k = .fault .range) ∧
      (off + n ≤ view.len → guarded view off n k = .next k) :=
  ⟨fun h => guarded_of_not_le k h.not_ge, guarded_of_le k⟩

/-- A write of bytes leaves every byte outside their range. -/
theorem sameOutside_storeBytes (s : State) (view : View) (off : Nat) (bs : List Byte) :
    sameOutside s (s.storeBytes view off bs) (view.base + off) bs.length := by
  intro a ha
  rw [storeBytes_mem, Memory.read_writeBytes, if_neg (by omega)]

/-- What a guarded write of bytes does: it faults out of range, and else stores the bytes with the response and leaves
the rest. Its bytes are given by their values `byte`, so that each WRITE names them by the bits of its operand. -/
theorem guarded_storeBytes_reply (s : State) (view : View) (off : Nat) (bs : List Byte) (r : Response)
    {byte : Nat → Byte} (hbyte : ∀ k < bs.length, sourceOf bs k = byte k) :
    (view.len < off + bs.length →
      guarded view off bs.length ((s.storeBytes view off bs).reply r) = .fault .range) ∧
    (off + bs.length ≤ view.len → ∃ t,
      guarded view off bs.length ((s.storeBytes view off bs).reply r) = .next t ∧ t.rsp = r ∧
      (∀ k < bs.length, t.byteAt view (off + k) = byte k) ∧
      sameOutside s t (view.base + off) bs.length ∧ sameRest s t) := by
  refine (guarded_fault_and_next _).imp id fun hnext hin => ⟨_, hnext hin, rfl, fun k hk => ?_, ?_, ?_⟩
  · rw [byteAt_reply, byteAt_storeBytes_add hk, hbyte k hk]
  · exact sameOutside_storeBytes s view off bs
  · exact ⟨rfl, rfl, rfl, rfl, rfl⟩

/-- Settles O8: the selector is decoded, and WRITE16 is a guarded write of the value's 2 bytes. -/
theorem write16StoresTwoBytes : Obligations.Write16StoresTwoBytes := fun off view =>
  ⟨fun _ => rfl, fun v s => guarded_storeBytes_reply s view off (bytes16 v) (okCount 2) (sourceOf_bytes16 v)⟩

/-- Settles O9: the selector is decoded, and WRITE32 is a guarded write of the value's 4 bytes. -/
theorem write32StoresFourBytes : Obligations.Write32StoresFourBytes := fun off view =>
  ⟨fun _ => rfl, fun v s => guarded_storeBytes_reply s view off (bytes32 v) (okCount 4) (sourceOf_bytes32 v)⟩

/-- Settles O10: the selector is decoded, and WRITE64 is a guarded write of the value's 8 bytes. -/
theorem write64StoresEightBytes : Obligations.Write64StoresEightBytes := fun off view =>
  ⟨fun _ => rfl, fun v s => guarded_storeBytes_reply s view off (bytes64 v) (okCount 8) (sourceOf_bytes64 v)⟩

/-! ### The READ operations -/

/-- Settles O11: the selector is decoded, and READ16 is a guarded response with the bytes' value. -/
theorem read16LoadsTwoBytes : Obligations.Read16LoadsTwoBytes := fun off view =>
  ⟨rfl, fun s => guarded_fault_and_next (s.reply (okValue ((s.load16 view off).setWidth 64)))⟩

/-- Settles O12: the selector is decoded, and READ32 is a guarded response with the bytes' value. -/
theorem read32LoadsFourBytes : Obligations.Read32LoadsFourBytes := fun off view =>
  ⟨rfl, fun s => guarded_fault_and_next (s.reply (okValue ((s.load32 view off).setWidth 64)))⟩

/-- Settles O13: the selector is decoded, and READ64 is a guarded response with the bytes' value. -/
theorem read64LoadsEightBytes : Obligations.Read64LoadsEightBytes := fun off view =>
  ⟨rfl, fun s => guarded_fault_and_next (s.reply (okValue (s.load64 view off)))⟩

/-! ### A READ after a WRITE (40_integer_codec.md R136) -/

/-- A guarded write that went on was in range, and a state with the same bytes there holds what it wrote. -/
theorem byteAt_of_guarded_storeBytes {s t u : State} {view : View} {off : Nat} {bs : List Byte} {r : Response}
    {byte : Nat → Byte} (hbyte : ∀ k < bs.length, sourceOf bs k = byte k)
    (hnext : guarded view off bs.length ((s.storeBytes view off bs).reply r) = .next t)
    (hsame : ∀ k < bs.length, u.byteAt view (off + k) = t.byteAt view (off + k)) :
    off + bs.length ≤ view.len ∧ ∀ k < bs.length, u.byteAt view (off + k) = byte k := by
  obtain ⟨hin, rfl⟩ := guarded_eq_next.1 hnext
  refine ⟨hin, fun k hk => ?_⟩
  rw [hsame k hk, byteAt_reply, byteAt_storeBytes_add hk, hbyte k hk]

/-- Settles O14: the WRITE was in range, so the READ is, and the bytes it joins are those of the value written. -/
theorem readAfterWriteGivesValue : Obligations.ReadAfterWriteGivesValue := by
  intro off view s t u
  refine ⟨fun v hwrite hsame => ?_, fun v hwrite hsame => ?_, fun v hwrite hsame => ?_⟩
  · obtain ⟨hin, hbytes⟩ := byteAt_of_guarded_storeBytes (bs := bytes16 v) (sourceOf_bytes16 v) hwrite hsame
    rw [← memRead16_eq hbytes]
    exact ((read16LoadsTwoBytes off view).2 u).2 hin
  · obtain ⟨hin, hbytes⟩ := byteAt_of_guarded_storeBytes (bs := bytes32 v) (sourceOf_bytes32 v) hwrite hsame
    rw [← memRead32_eq hbytes]
    exact ((read32LoadsFourBytes off view).2 u).2 hin
  · obtain ⟨hin, hbytes⟩ := byteAt_of_guarded_storeBytes (bs := bytes64 v) (sourceOf_bytes64 v) hwrite hsame
    rw [← memRead64_eq hbytes]
    exact ((read64LoadsEightBytes off view).2 u).2 hin

end Sys2Proof.Machine

/-! PROOF. The CRC-8 Engine: the checksum as a fold of the update step, and what one step keeps apart under a bijective
table (41_crc8.md R150 to R156). -/

namespace Sys2Proof.Machine

section
variable (table : Byte → Byte)

/-! ### The checksum as a fold (41_crc8.md R150, R154) -/

/-- The recursion of R150 is the left fold of the step. -/
theorem crc8From_eq_foldl (acc : Byte) (bytes : List Byte) :
    crc8From table acc bytes = bytes.foldl (crc8Step table) acc := by
  induction bytes generalizing acc with
  | nil => rfl
  | cons b rest ih => exact ih (crc8Step table acc b)

theorem crc8Of_append (x y : List Byte) : crc8Of table (x ++ y) = crc8From table (crc8Of table x) y := by
  simp only [crc8Of, crc8From_eq_foldl, List.foldl_append]

/-- The checksum of a range of a view folds over the offsets of its bytes. -/
theorem crc8Of_bytesAt (s : State) (view : View) (off n : Nat) :
    crc8Of table (s.bytesAt view off n) =
      (List.range n).foldl (fun acc k => crc8Step table acc (s.byteAt view (off + k))) crc8Init := by
  rw [crc8Of, crc8From_eq_foldl, State.bytesAt, List.foldl_map]

/-! ### A bijective table (41_crc8.md R156) -/

variable {table}

/-- The step is the table after an XOR with the byte, which undoes itself. -/
theorem crc8Step_bijective (h : TableBijective table) (b : Byte) :
    Function.Bijective fun acc => crc8Step table acc b := by
  have hxor : Function.Involutive fun acc : Byte => acc ^^^ b := fun acc => by
    simp only [BitVec.xor_assoc, BitVec.xor_self, BitVec.xor_zero]
  exact Function.Bijective.comp h hxor.bijective

/-- From one accumulator, steps on different bytes differ. -/
theorem crc8Step_injective_byte (h : TableBijective table) (acc : Byte) :
    Function.Injective (crc8Step table acc) := fun _ _ hstep => (BitVec.xor_right_inj acc).1 (h.injective hstep)

/-- Two accumulators that differ still differ after any bytes. -/
theorem crc8From_injective (h : TableBijective table) (bytes : List Byte) :
    Function.Injective fun acc => crc8From table acc bytes := by
  induction bytes with
  | nil => exact Function.injective_id
  | cons b rest ih => exact ih.comp (crc8Step_bijective h b).injective

end

/-- Settles O19: the step on the changed byte makes the accumulators differ, and the bytes after it keep them apart. -/
theorem crc8DetectsOneByteUnderBijectiveTable : Obligations.Crc8DetectsOneByteUnderBijectiveTable := by
  refine fun table h => ⟨crc8Step_bijective h, crc8From_injective h, fun before after b b' hne hcrc => hne ?_⟩
  rw [crc8Of_append, crc8Of_append] at hcrc
  have hstep : crc8Step table (crc8Of table before) b = crc8Step table (crc8Of table before) b' :=
    crc8From_injective h after hcrc
  exact crc8Step_injective_byte h _ hstep

/-- Settles O16: the selector is decoded, and CRC8 is a guarded response with the fold over the range's bytes. -/
theorem crc8ReturnsChecksum : Obligations.Crc8ReturnsChecksum := by
  refine fun off n view => ⟨rfl, fun s => ?_⟩
  have hguard := guarded_fault_and_next (view := view) (off := off) (n := n)
    (s.reply (okValue ((crc8Of Config.crc8Table (s.bytesAt view off n)).setWidth 64)))
  refine hguard.imp id fun hnext hin => (hnext hin).trans ?_
  rw [crc8Of_bytesAt]
  rfl

/-- Settles O17: the fold over no bytes is where it starts, so CRC8 with no bytes answers `CRC8_INIT`. -/
theorem crc8OfNothingIsInit : Obligations.Crc8OfNothingIsInit :=
  ⟨fun _ => rfl, fun off view s hoff => ((crc8ReturnsChecksum off 0 view).2 s).2 hoff⟩

/-- Settles O18: a fold over two lists in a row continues from the fold over the first. -/
theorem crc8SplitLaw : Obligations.Crc8SplitLaw := crc8Of_append

end Sys2Proof.Machine

/-! PROOF. The Message Codec: what ENCODE leaves in a view, what DECODE answers on one, and the laws of the two together
(42_message_codec.md R170 to R209). -/

namespace Sys2Proof.Machine

/-! ### A frame's bytes: those before the trailer, and the trailer (30_encoding.md R90) -/

theorem getD_bytes_body {f : WireFrame} (hwf : f.message.wf = true) {o : Nat}
    (ho : o < 4 + payloadLen f.message.type f.message.subtype) : f.bytes.getD o 0 = f.message.body.getD o 0 :=
  List.getD_append _ _ _ _ (ho.trans_eq (length_body hwf).symm)

theorem getD_bytes_trailer {f : WireFrame} (hwf : f.message.wf = true) :
    f.bytes.getD (4 + payloadLen f.message.type f.message.subtype) 0 = f.trailer := by
  rw [← length_body hwf]
  simp [WireFrame.bytes]

theorem length_toWire_body {m : Message} (hwf : m.wf = true) :
    m.toWire.body.length = 4 + payloadLen m.type m.subtype := length_body ((wf_toWire m).trans hwf)

theorem getD_frameBytes_body (table : Byte → Byte) {m : Message} (hwf : m.wf = true) {o : Nat}
    (ho : o < 4 + payloadLen m.type m.subtype) : (frameBytes table m).getD o 0 = m.toWire.body.getD o 0 :=
  List.getD_append _ _ _ _ (ho.trans_eq (length_toWire_body hwf).symm)

theorem getD_frameBytes_trailer (table : Byte → Byte) {m : Message} (hwf : m.wf = true) :
    (frameBytes table m).getD (4 + payloadLen m.type m.subtype) 0 = crc8Of table m.toWire.body := by
  rw [← length_toWire_body hwf]
  simp [frameBytes]

/-- Payload byte `o` stands at offset `4 + o` (30_encoding.md R96). -/
theorem getD_body_payload (m : MessageOf Byte) (o : Nat) :
    m.body.getD (4 + o) 0 = (payloadBytes m.payload).getD o 0 := by
  simp [MessageOf.body, Nat.add_comm 4 o]

/-- The bytes of a source at `[0, n)`, where those of a list of `n` bytes stand there. -/
theorem map_range_eq {rd : Nat → Byte} {bs : List Byte} (h : ∀ o < bs.length, rd o = bs.getD o 0) :
    (List.range bs.length).map rd = bs :=
  List.ext_getElem (by simp) fun o _ ho => by simpa [ho] using h o ho

theorem bytesAt_zero (s : State) (view : View) (n : Nat) : s.bytesAt view 0 n = (List.range n).map (s.byteAt view) := by
  simp only [State.bytesAt, Nat.zero_add]

/-! ### Decoding a frame, from its tags or its bytes (42_message_codec.md R185 steps 1 to 4) -/

section
variable {len : Nat} {rd : Nat → Byte}

/-- Where the bytes before a trailer stand, the frame of that record decodes, with the trailer that stands there. -/
theorem decodeFrame_of_body {m : MessageOf Byte} (hwf : m.wf = true) (hlen : 5 + payloadLen m.type m.subtype ≤ len)
    (hbody : ∀ o < 4 + payloadLen m.type m.subtype, rd o = m.body.getD o 0) :
    decodeFrame len rd = .ok ⟨m, rd (4 + payloadLen m.type m.subtype)⟩ := by
  have hbytes := length_bytes (f := ⟨m, rd (4 + payloadLen m.type m.subtype)⟩) hwf
  refine (decodeFrame_ok_iff _ _ _).2 ⟨hwf, hbytes.trans_le hlen, fun o ho => ?_⟩
  have ho : o < 5 + payloadLen m.type m.subtype := ho.trans_eq hbytes
  rcases Nat.lt_or_eq_of_le (show o ≤ 4 + payloadLen m.type m.subtype by omega) with hlt | rfl
  · rw [hbody o hlt]
    exact (getD_bytes_body (f := ⟨m, _⟩) hwf hlt).symm
  · exact (getD_bytes_trailer (f := ⟨m, _⟩) hwf).symm

/-- ERROR is the one type with an error code (30_encoding.md R95). -/
theorem shape_eq_error {t : MessageType} {s : MsgSubtype} : shape t s = .error ↔ t = .error := by
  cases t with
  | sensorData => rcases s with s | a <;> [cases s; skip] <;> simp [shape]
  | actuator => rcases s with s | a <;> [skip; cases a] <;> simp [shape]
  | _ => simp [shape]

section
variable {f : WireFrame} (h : decodeFrame len rd = .ok f)
include h

/-- The record of a decoded frame spells the bytes read before the trailer. -/
theorem body_of_decodeFrame :
    f.message.body = (List.range (4 + payloadLen f.message.type f.message.subtype)).map rd := by
  obtain ⟨hwf, -, hbytes⟩ := (decodeFrame_ok_iff _ _ _).1 h
  rw [length_bytes hwf] at hbytes
  rw [← length_body hwf]
  refine (map_range_eq fun o ho => ?_).symm
  rw [length_body hwf] at ho
  rw [hbytes o (by omega), getD_bytes_body hwf ho]

theorem trailer_of_decodeFrame : f.trailer = rd (4 + payloadLen f.message.type f.message.subtype) := by
  obtain ⟨hwf, -, hbytes⟩ := (decodeFrame_ok_iff _ _ _).1 h
  rw [length_bytes hwf] at hbytes
  rw [hbytes _ (by omega), getD_bytes_trailer hwf]

/-- A decoded frame is no Message exactly where it is an ERROR frame whose code byte names no ErrorCode
(42_message_codec.md R197). -/
theorem ofWire_eq_none_of_decodeFrame : f.message.ofWire = none ↔ f.message.type = .error ∧ 0x06#8 < rd 4 := by
  obtain ⟨hwf, -, hbytes⟩ := (decodeFrame_ok_iff _ _ _).1 h
  rw [length_bytes hwf] at hbytes
  obtain ⟨⟨t, s, id, q, p⟩, c⟩ := f
  have hshape : p.variant = shape t s := ((wf_iff _).1 hwf).2
  simp only [MessageOf.ofWire, Option.map_eq_none_iff, ofWire_payload_eq_none]
  rw [← shape_eq_error (s := s), ← hshape]
  cases p with
  | error b =>
    have hcode : rd 4 = b := hbytes 4 (by omega)
    simp [Payload.variant, hcode]
  | _ => simp [Payload.variant]

end

/-! ### The checks of a frame's tags, in their order (42_message_codec.md R189 to R193) -/

theorem subtypeOf_actuator {b : Byte} (h : 0x02#8 < b) : subtypeOf .actuator b = .error .invalidActuatorType := by
  simp only [subtypeOf, (actuatorTypeOf_eq_none b).2 h]

theorem subtypeOf_sensor {t : MessageType} {b : Byte} (ht : t ≠ .actuator) (h : 0x0B#8 < b) :
    subtypeOf t b = .error .invalidSensorType := by
  cases t with
  | actuator => exact (ht rfl).elim
  | _ => simp only [subtypeOf, (sensorTypeOf_eq_none b).2 h]

theorem exists_subtypeOf {t : MessageType} {b : Byte} (hactuator : t = .actuator → ¬0x02#8 < b)
    (hsensor : t ≠ .actuator → ¬0x0B#8 < b) : ∃ s, subtypeOf t b = .ok s := by
  by_cases ht : t = .actuator
  · obtain ⟨a, ha⟩ := Option.ne_none_iff_exists'.1 (mt (actuatorTypeOf_eq_none b).1 (hactuator ht))
    exact ⟨.actuator a, (subtypeOf_ok_iff _ _ _).2 ⟨by simp [MsgSubtype.inSpace, ht], code_of_actuatorTypeOf ha⟩⟩
  · obtain ⟨a, ha⟩ := Option.ne_none_iff_exists'.1 (mt (sensorTypeOf_eq_none b).1 (hsensor ht))
    exact ⟨.sensor a, (subtypeOf_ok_iff _ _ _).2 ⟨by simp [MsgSubtype.inSpace, ht], code_of_sensorTypeOf ha⟩⟩

theorem decodeFrame_of_messageTypeOf_none (hlen : ¬len < 1) (ht : messageTypeOf (rd 0) = none) :
    decodeFrame len rd = .error .invalidMessageType := by
  simp only [decodeFrame, if_neg hlen, ht]

section
variable {t : MessageType} (ht : messageTypeOf (rd 0) = some t)
include ht

/-- The byte that names a type is that type's code alone. -/
theorem type_byte_eq_code_iff (u : MessageType) : rd 0 = u.code ↔ t = u := by
  rw [← code_of_messageTypeOf ht, MessageType.code_injective.eq_iff]

/-- The byte of the subtype is read, and so looked for, before it is checked. -/
theorem decodeFrame_of_no_subtype (hlen : len < 2) : decodeFrame len rd = .error .bufferTooShort := by
  simp only [decodeFrame, ht, if_pos hlen, ite_self]

theorem decodeFrame_of_subtypeOf_error {e : Status} (hlen : ¬len < 2) (hs : subtypeOf t (rd 1) = .error e) :
    decodeFrame len rd = .error e := by
  simp only [decodeFrame, if_neg (show ¬len < 1 by omega), ht, if_neg hlen, hs]

variable {s : MsgSubtype} (hs : subtypeOf t (rd 1) = .ok s)
include hs

theorem decodeFrame_of_short (hlen : ¬len < 2) (hshort : len < 5 + payloadLen t s) :
    decodeFrame len rd = .error .bufferTooShort := by
  simp only [decodeFrame, if_neg (show ¬len < 1 by omega), ht, if_neg hlen, hs, if_pos hshort, ite_self]

theorem exists_decodeFrame_of_tags (hlen : 5 + payloadLen t s ≤ len) :
    ∃ f, decodeFrame len rd = .ok f ∧ f.message.type = t ∧ f.message.subtype = s := by
  simp only [decodeFrame, ht, hs]
  rw [if_neg (by omega), if_neg (by omega), if_neg (by omega), if_neg (by omega)]
  exact ⟨_, rfl, rfl, rfl⟩

end
end

/-! ### ENCODE -/

/-- Settles O22: the Message is checked, then the capacity. -/
theorem encodeStops : Obligations.EncodeStops := by
  refine fun m view s => ⟨fun hwf => ?_, fun hwf hlen => ?_⟩
  · exact if_neg (by simp [hwf])
  · exact (if_pos hwf).trans (if_pos hlen)

section
variable {m : Message} {view : View} {s t : State} (h : exec (.encode m view) s = .next t)
include h

theorem wf_of_encode : m.wf = true := (execEncode_eq_next.1 h).1

theorem byteAt_of_encode {o : Nat} (ho : o < 5 + payloadLen m.type m.subtype) :
    t.byteAt view o = (frameBytes Config.crc8Table m).getD o 0 := by
  obtain ⟨hwf, -, rfl⟩ := execEncode_eq_next.1 h
  rw [byteAt_reply, byteAt_storeBytes, length_frameBytes _ hwf, if_pos (by omega), Nat.sub_zero]

/-- ENCODE leaves header and payload at `[0, 4+N)` (42_message_codec.md R173 to R175). -/
theorem byteAt_of_encode_body : ∀ o < 4 + payloadLen m.type m.subtype, t.byteAt view o = m.toWire.body.getD o 0 :=
  fun o ho => by rw [byteAt_of_encode h (by omega), getD_frameBytes_body _ (wf_of_encode h) ho]

/-- ENCODE leaves the trailer at `4+N` (42_message_codec.md R176). -/
theorem byteAt_of_encode_trailer :
    t.byteAt view (4 + payloadLen m.type m.subtype) = crc8Of Config.crc8Table m.toWire.body := by
  rw [byteAt_of_encode h (by omega), getD_frameBytes_trailer _ (wf_of_encode h)]

theorem bytesAt_of_encode : t.bytesAt view 0 (4 + payloadLen m.type m.subtype) = m.toWire.body := by
  have hlen := length_toWire_body (wf_of_encode h)
  rw [bytesAt_zero, ← hlen]
  exact map_range_eq fun o ho => byteAt_of_encode_body h o (hlen ▸ ho)

end

/-- Settles O20: what stands at `[0, 5+N)` is the frame, and nothing is written outside it. -/
theorem encodeWritesHeaderAndTrailer : Obligations.EncodeWritesHeaderAndTrailer := by
  intro m view s hwf hlen
  have hnext : exec (.encode m view) s = .next _ := execEncode_eq_next.2 ⟨hwf, hlen, rfl⟩
  have hbody := byteAt_of_encode_body hnext
  refine ⟨_, hnext, hbody 0 (by omega), hbody 1 (by omega), hbody 2 (by omega), hbody 3 (by omega), ?_, rfl, ?_, ?_,
    sameRest_of_exec hnext⟩
  · rw [byteAt_of_encode_trailer hnext, bytesAt_of_encode hnext]
  · rw [frameLen]
    omega
  · rw [← length_frameBytes Config.crc8Table hwf]
    exact sameOutside_storeBytes s view 0 _

/-! ### The payload fields (30_encoding.md R96 to R98) -/

section
variable (rd : Nat → Byte) (o : Nat)

/-- Byte `k` of 2 bytes read is the one at `o + k`. -/
theorem byte_memRead16 : ∀ k < 2, rd (o + k) = (memRead16 rd o).extractLsb' (8 * k) 8 := by
  intro k hk
  rw [← sourceOf_bytes16 _ k hk, memRead16, split16]
  interval_cases k <;> rfl

/-- Byte `k` of 4 bytes read is the one at `o + k`. -/
theorem byte_memRead32 : ∀ k < 4, rd (o + k) = (memRead32 rd o).extractLsb' (8 * k) 8 := by
  intro k hk
  rw [← sourceOf_bytes32 _ k hk, memRead32, split32]
  interval_cases k <;> rfl

/-- Byte `k` of 8 bytes read is the one at `o + k`. -/
theorem byte_memRead64 : ∀ k < 8, rd (o + k) = (memRead64 rd o).extractLsb' (8 * k) 8 := by
  intro k hk
  rw [← sourceOf_bytes64 _ k hk, memRead64, split64]
  interval_cases k <;> rfl

end

/-- Where the bytes before the trailer stand, the payload's fields are read back. -/
theorem readPayload_of_body {m : Message} (hwf : m.wf = true) {rd : Nat → Byte}
    (hbody : ∀ o < 4 + payloadLen m.type m.subtype, rd o = m.toWire.body.getD o 0) :
    readPayload m.payload.variant rd = m.payload.toWire := by
  rw [← variant_toWire]
  refine readPayload_eq m.payload.toWire rd fun o ho => ?_
  rw [variant_toWire, ((wf_iff m).1 hwf).2] at ho
  rw [hbody (4 + o) (Nat.add_lt_add_left ho 4)]
  exact getD_body_payload m.toWire o

/-- Settles O21: each field is what a read at its offset gives, so its bytes stand there. -/
theorem encodeWritesPayloadFields : Obligations.EncodeWritesPayloadFields := by
  intro m view s t hnext
  have hread := readPayload_of_body (wf_of_encode hnext) (byteAt_of_encode_body hnext)
  obtain ⟨_, _, _, _, p⟩ := m
  cases p with
  | error code =>
    injection hread
  | time micros =>
    cases hread
    exact byte_memRead64 _ 4
  | servo f | motor f | proximity f =>
    cases hread
    exact byte_memRead16 _ 4
  | led value =>
    cases hread
    rfl
  | gyroscope x y z | accelerometer x y z | magnetometer x y z | orientation x y z =>
    cases hread
    exact fun k hk => ⟨byte_memRead32 _ 4 k hk, byte_memRead32 _ 8 k hk, byte_memRead32 _ 12 k hk⟩
  | mouse x y duration quality =>
    cases hread
    exact ⟨fun k hk => ⟨byte_memRead32 _ 4 k hk, byte_memRead32 _ 8 k hk, byte_memRead32 _ 12 k hk⟩, rfl⟩
  | sbus c flags =>
    cases hread
    exact ⟨fun k hk => ⟨byte_memRead16 _ 4 k hk, byte_memRead16 _ 6 k hk, byte_memRead16 _ 8 k hk,
      byte_memRead16 _ 10 k hk, byte_memRead16 _ 12 k hk, byte_memRead16 _ 14 k hk, byte_memRead16 _ 16 k hk,
      byte_memRead16 _ 18 k hk⟩, rfl⟩
  | empty => trivial

/-- At most one well-formed Message has its header and payload at the start of given bytes: with whatever byte stands
behind them, they decode to it. -/
theorem eq_of_body {m m' : Message} {rd : Nat → Byte} (hwf : m.wf = true) (hwf' : m'.wf = true)
    (hbody : ∀ o < 4 + payloadLen m.type m.subtype, rd o = m.toWire.body.getD o 0)
    (hbody' : ∀ o < 4 + payloadLen m'.type m'.subtype, rd o = m'.toWire.body.getD o 0) : m = m' := by
  have hlen : 5 + payloadLen m.type m.subtype ≤ 22 := Nat.add_le_add_left (payloadLen_le _ _) 5
  have hlen' : 5 + payloadLen m'.type m'.subtype ≤ 22 := Nat.add_le_add_left (payloadLen_le _ _) 5
  have hm := decodeFrame_of_body ((wf_toWire m).trans hwf) hlen hbody
  rw [decodeFrame_of_body ((wf_toWire m').trans hwf') hlen' hbody', Except.ok.injEq, WireFrame.mk.injEq] at hm
  simpa using congrArg MessageOf.ofWire hm.1.symm

/-- Settles O24: both Messages' headers and payloads stand in the second view; and a frame depends on its Message
alone. -/
theorem encodeIsInjective : Obligations.EncodeIsInjective := by
  intro m m' view view' s s' t t' hnext hnext'
  refine ⟨fun hsame => ?_, ?_⟩
  · refine eq_of_body (wf_of_encode hnext) (wf_of_encode hnext') (fun o ho => ?_) (byteAt_of_encode_body hnext')
    rw [← hsame o ho, byteAt_of_encode_body hnext o ho]
  · rintro rfl o ho
    rw [byteAt_of_encode hnext ho, byteAt_of_encode hnext' ho]

/-! ### DECODE -/

/-- Settles O34: the meaning of DECODE is that function. -/
theorem decodeRunsDecodeResponse : Obligations.DecodeRunsDecodeResponse := fun _ _ => rfl

section
variable {table : Byte → Byte} {len : Nat} {rd : Nat → Byte}

theorem decodeResponse_of_error {e : Status} (h : decodeFrame len rd = .error e) :
    decodeResponse table len rd = raised e := by
  simp only [decodeResponse, h]

theorem decodeResponse_of_ok {f : WireFrame} (h : decodeFrame len rd = .ok f) :
    decodeResponse table len rd = frameResponse table f := by
  simp only [decodeResponse, h]

theorem frameResponse_of_crc_ne {f : WireFrame} (h : crc8Of table f.message.body ≠ f.trailer) :
    frameResponse table f = raised .checksumMismatch := if_neg h

theorem frameResponse_of_crc_eq {f : WireFrame} (h : crc8Of table f.message.body = f.trailer) :
    (f.message.ofWire = none ∧ frameResponse table f = raised .invalidErrorCode) ∨
    ∃ m, f.message.ofWire = some m ∧
      frameResponse table f = okMessage m (5 + payloadLen f.message.type f.message.subtype) := by
  rw [frameResponse, if_pos h]
  cases f.message.ofWire with
  | none => exact .inl ⟨rfl, rfl⟩
  | some m => exact .inr ⟨m, rfl, rfl⟩

/-- The checks behind a frame that was read whole: the trailer, then an ERROR frame's code (42_message_codec.md R195 to
R198). -/
theorem decodeResponse_of_complete {f : WireFrame} (h : decodeFrame len rd = .ok f) {n : Nat}
    (hn : payloadLen f.message.type f.message.subtype = n) :
    if crc8Of table ((List.range (4 + n)).map rd) ≠ rd (4 + n) then
      decodeResponse table len rd = raised .checksumMismatch
    else if f.message.type = .error ∧ 0x06#8 < rd 4 then decodeResponse table len rd = raised .invalidErrorCode
    else (decodeResponse table len rd).status = some .ok ∧ (decodeResponse table len rd).value = none := by
  subst hn
  rw [← body_of_decodeFrame h, ← trailer_of_decodeFrame h, decodeResponse_of_ok h]
  split
  · next hcrc => exact frameResponse_of_crc_ne hcrc
  next hcrc =>
  simp only [← ofWire_eq_none_of_decodeFrame h]
  rcases frameResponse_of_crc_eq (not_not.1 hcrc) with ⟨hnone, hresponse⟩ | ⟨m, hsome, hresponse⟩
  · rw [if_pos hnone, hresponse]
  · rw [if_neg (by simp [hsome]), hresponse]
    exact ⟨rfl, rfl⟩

end

/-- Settles O25: DECODE's checks, in the order of the rule; behind each that is passed, the value it looked for. -/
theorem decodeRaisesFirstError : Obligations.DecodeRaisesFirstError := by
  intro view s
  refine ⟨_, rfl, ?_⟩
  split
  · next hempty =>
    exact decodeResponse_of_error (if_pos hempty)
  next hlen1 =>
  split
  · next htype =>
    exact decodeResponse_of_error (decodeFrame_of_messageTypeOf_none hlen1 ((messageTypeOf_eq_none _).2 htype))
  next htype =>
  obtain ⟨t, ht⟩ := Option.ne_none_iff_exists'.1 (mt (messageTypeOf_eq_none _).1 htype)
  have hactuator : s.byteAt view 0 = 0x06 ↔ t = .actuator := type_byte_eq_code_iff ht .actuator
  have herror : s.byteAt view 0 = 0x00 ↔ t = .error := type_byte_eq_code_iff ht .error
  simp only [ne_eq, hactuator, herror]
  split
  · next hshort =>
    exact decodeResponse_of_error (decodeFrame_of_no_subtype ht hshort)
  next hlen2 =>
  split
  · next hsub =>
    have he : subtypeOf t (s.byteAt view 1) = .error .invalidActuatorType := hsub.1 ▸ subtypeOf_actuator hsub.2
    exact decodeResponse_of_error (decodeFrame_of_subtypeOf_error ht hlen2 he)
  next hnoActuator =>
  split
  · next hsub =>
    exact decodeResponse_of_error (decodeFrame_of_subtypeOf_error ht hlen2 (subtypeOf_sensor hsub.1 hsub.2))
  next hnoSensor =>
  obtain ⟨u, hu⟩ := exists_subtypeOf (not_and.1 hnoActuator) (not_and.1 hnoSensor)
  obtain ⟨hspace, hcode⟩ := (subtypeOf_ok_iff _ _ _).1 hu
  have hN : payloadLen t u = payloadLenByCode (s.byteAt view 0) (s.byteAt view 1) := by
    rw [payloadLen_eq_payloadLenByCode hspace, code_of_messageTypeOf ht, hcode]
  rw [← hN]
  split
  · next hshort =>
    exact decodeResponse_of_error (decodeFrame_of_short ht hu hlen2 (by omega))
  split
  · next hshort =>
    exact decodeResponse_of_error (decodeFrame_of_short ht hu hlen2 hshort)
  next hlen =>
  obtain ⟨f, hf, rfl, rfl⟩ := exists_decodeFrame_of_tags ht hu (not_lt.1 hlen)
  rw [bytesAt_zero]
  exact decodeResponse_of_complete hf rfl

/-- Settles O26: behind a status `OK`, header and payload of the Message stand at `[0, 4+N)`. -/
theorem decodeDeliversMessage : Obligations.DecodeDeliversMessage := by
  intro view s t hnext hok
  cases hnext
  obtain ⟨m, hwf, -, hbytes, hresponse⟩ := decodeResponse_ok hok
  have hbody (o : Nat) (ho : o < 4 + payloadLen m.type m.subtype) : s.byteAt view o = m.toWire.body.getD o 0 := by
    rw [hbytes o (by omega), getD_frameBytes_body _ hwf ho]
  have htype : s.byteAt view 0 = m.type.code := hbody 0 (by omega)
  have hsubtype : s.byteAt view 1 = m.subtype.code := hbody 1 (by omega)
  have hread := readPayload_of_body hwf hbody
  have hN := payloadLen_eq_payloadLenByCode ((wf_iff m).1 hwf).1
  rw [reply_rsp, hresponse, htype, hsubtype, ← hN]
  refine ⟨m, rfl, hwf, rfl, rfl, rfl, (hbody 2 (by omega)).symm, (hbody 3 (by omega)).symm, ?_⟩
  obtain ⟨_, _, _, _, p⟩ := m
  cases p with
  | error code =>
    injection hread with hcode
    exact hcode.symm
  | time micros | servo f | motor f | proximity f | led value =>
    cases hread
    rfl
  | gyroscope x y z | accelerometer x y z | magnetometer x y z | orientation x y z =>
    cases hread
    exact ⟨rfl, rfl, rfl⟩
  | mouse x y duration quality =>
    cases hread
    exact ⟨rfl, rfl, rfl, rfl⟩
  | sbus c flags =>
    cases hread
    exact ⟨rfl, rfl⟩
  | empty => trivial

/-- Where the frame of a Message stands at the start of a view, DECODE delivers the Message. -/
theorem exec_decode_of_frameBytes {m : Message} {view : View} {s : State} (hwf : m.wf = true)
    (hlen : 5 + payloadLen m.type m.subtype ≤ view.len)
    (hbytes : ∀ o < 5 + payloadLen m.type m.subtype, s.byteAt view o = (frameBytes Config.crc8Table m).getD o 0) :
    exec (.decode view) s = .next { s with rsp := okMessage m (5 + payloadLen m.type m.subtype) } := by
  rw [decodeRunsDecodeResponse, decodeResponse_frameBytes _ m _ _ hwf hlen hbytes]

/-- Settles O28: the frame of the Message delivered stands in the other state too. -/
theorem decodeIgnoresTrailingBytes : Obligations.DecodeIgnoresTrailingBytes := by
  intro base len len' k s s' t hnext hok hcount hlen' hsame
  cases hnext
  obtain ⟨m, hwf, hlen, hbytes, hresponse⟩ := decodeResponse_ok hok
  rw [reply_rsp, hresponse] at hcount ⊢
  cases hcount
  exact ⟨hlen, exec_decode_of_frameBytes hwf hlen' fun o ho => (hsame o ho).trans (hbytes o ho)⟩

/-- Settles O40: the frame decodes from the view, and the frame's kind answers the response to it. -/
theorem decodeRunsTheFrameKind : Obligations.DecodeRunsTheFrameKind := by
  intro i f view s hf hlen hbytes
  rw [exec_frame? hf, decodeRunsDecodeResponse,
    decodeResponse_of_ok ((decodeFrame_ok_iff _ _ _).2 ⟨wf_of_frame? hf, hlen, hbytes⟩)]
  rfl

/-- Settles O48: the step is the transaction of DECODE, which does what the frame's kind does. -/
theorem stepRunsTheDecodedFrame : Obligations.StepRunsTheDecodedFrame := by
  intro s r rest i hprogram hop hdecode hview
  obtain ⟨f, hf, hparts⟩ := decode_frame_eq_ok.1 hdecode
  rw [length_bytesAt] at hf
  obtain ⟨-, hlen, hbytes⟩ := (decodeFrame_ok_iff _ _ _).1 hf
  have hsource (o : Nat) (ho : o < r.view.len) : sourceOf (s.bytesAt r.view 0 r.view.len) o = s.byteAt r.view o := by
    simp [sourceOf, bytesAt_zero, ho]
  have hframe := frame?_eq_some.2 hparts
  have hnext := exec_frame? hframe { s with program := rest, req := some r }
  have hsame : exec (.decode r.view) { s with program := rest, req := some r } = exec i _ :=
    decodeRunsTheFrameKind i f r.view _ hframe hlen fun o ho =>
      (hsource o (ho.trans_le hlen)).symm.trans (hbytes o ho)
  have hrequest : decode (.request r) = .ok (.decode r.view) :=
    decode_request_eq_ok.2 (by simp [decodeRequest, hop])
  refine ⟨_, hnext, ?_⟩
  rw [step_of_decoded_request hprogram hrequest hview, hsame, hnext]
  rfl

/-! ### The message laws (42_message_codec.md R205 to R208) -/

/-- Settles O30: ENCODE leaves the Message's frame, and DECODE delivers the Message where that frame stands. -/
theorem encodeDecodeRoundTrip : Obligations.EncodeDecodeRoundTrip := by
  intro m view s hwf hlen
  have hnext : exec (.encode m view) s = .next _ := execEncode_eq_next.2 ⟨hwf, hlen, rfl⟩
  have hfit := payloadLen_le m.type m.subtype
  exact ⟨_, _, hnext, rfl, fun u hsame => exec_decode_of_frameBytes hwf (by omega) fun o ho =>
    (hsame o ho).trans (byteAt_of_encode hnext ho)⟩

/-- Settles O31: header and payload decode with the altered trailer, which is not their checksum. -/
theorem alteredTrailerIsDetected : Obligations.AlteredTrailerIsDetected := by
  intro m view s t u hnext hsame haltered
  obtain ⟨hwf, hlen, -⟩ := execEncode_eq_next.1 hnext
  have hfit := payloadLen_le m.type m.subtype
  have hframe : decodeFrame view.len (u.byteAt view) =
      .ok ⟨m.toWire, u.byteAt view (4 + payloadLen m.type m.subtype)⟩ :=
    decodeFrame_of_body ((wf_toWire m).trans hwf) (show 5 + payloadLen m.type m.subtype ≤ view.len by omega)
      fun o ho => (hsame o ho).trans (byteAt_of_encode_body hnext o ho)
  have hcrc : crc8Of Config.crc8Table m.toWire.body ≠ u.byteAt view (4 + payloadLen m.type m.subtype) :=
    byteAt_of_encode_trailer hnext ▸ haltered.symm
  rw [decodeRunsDecodeResponse, (decodeResponse_of_ok hframe).trans (frameResponse_of_crc_ne hcrc)]
  rfl

/-- A frame with a byte behind its tags and before its trailer altered decodes to a frame of the same kind, with that
byte altered and the trailer over the bytes before. -/
theorem exists_decodeFrame_of_altered (table : Byte → Byte) {m : Message} {len k : Nat} (b : Byte) (hwf : m.wf = true)
    (hlen : 5 + payloadLen m.type m.subtype ≤ len) (hlo : 2 ≤ k) (hhi : k < 4 + payloadLen m.type m.subtype) :
    ∃ f, decodeFrame len (sourceOf ((frameBytes table m).set k b)) = .ok f ∧
      f.message.type = m.type ∧ f.message.subtype = m.subtype ∧
      f.message.body = m.toWire.body.set k b ∧ f.trailer = crc8Of table m.toWire.body := by
  have hN := length_toWire_body hwf
  have hkeep (o : Nat) (ho : o ≠ k) :
      sourceOf ((frameBytes table m).set k b) o = (frameBytes table m).getD o 0 := by
    simp only [sourceOf, List.getD_eq_getElem?_getD, List.getElem?_set_ne ho.symm]
  have htype : messageTypeOf (sourceOf ((frameBytes table m).set k b) 0) = some m.type := by
    rw [hkeep 0 (by omega)]
    exact messageTypeOf_code m.type
  have hsubtype : subtypeOf m.type (sourceOf ((frameBytes table m).set k b) 1) = .ok m.subtype := by
    rw [hkeep 1 (by omega)]
    exact (subtypeOf_ok_iff _ _ _).2 ⟨((wf_iff m).1 hwf).1, rfl⟩
  obtain ⟨f, hf, hft, hfs⟩ := exists_decodeFrame_of_tags htype hsubtype hlen
  refine ⟨f, hf, hft, hfs, ?_, ?_⟩
  · rw [body_of_decodeFrame hf, hft, hfs, ← hN, ← List.length_set (i := k) (a := b)]
    refine map_range_eq fun o ho => ?_
    rw [frameBytes, List.set_append_left _ _ (by omega)]
    exact List.getD_append _ _ _ _ ho
  · rw [trailer_of_decodeFrame hf, hft, hfs, hkeep _ (by omega), getD_frameBytes_trailer _ hwf]

/-- Settles O32: the altered byte alters the checksum, and the trailer is the one of before. -/
theorem alteredByteIsDetectedUnderBijectiveTable : Obligations.AlteredByteIsDetectedUnderBijectiveTable := by
  intro table htable m len k b hwf hlen hlo hhi hne
  obtain ⟨f, hf, -, -, hbody, htrailer⟩ := exists_decodeFrame_of_altered table b hwf hlen hlo hhi
  have hk : k < m.toWire.body.length := hhi.trans_eq (length_toWire_body hwf).symm
  rw [getD_frameBytes_body _ hwf hhi, List.getD_eq_getElem _ _ hk] at hne
  obtain ⟨-, -, hdetects⟩ := crc8DetectsOneByteUnderBijectiveTable table htable
  have hcrc := hdetects (m.toWire.body.take k) (m.toWire.body.drop (k + 1)) b _ hne.symm
  rw [← List.drop_eq_getElem_cons hk, List.take_append_drop] at hcrc
  refine (decodeResponse_of_ok hf).trans (frameResponse_of_crc_ne ?_)
  rw [hbody, htrailer, List.set_eq_take_append_cons_drop, if_pos hk]
  exact hcrc

/-- Settles O33: the trailer is checked, then the code of an ERROR frame; a Message delivered has the altered byte. -/
theorem alteredByteNeverYieldsSameMessage : Obligations.AlteredByteNeverYieldsSameMessage := by
  intro table m len k b hwf hlen hlo hhi hne
  obtain ⟨f, hf, htype, hsubtype, hbody, -⟩ := exists_decodeFrame_of_altered table b hwf hlen hlo hhi
  refine ⟨_, decodeResponse_of_ok hf, ?_⟩
  by_cases hcrc : crc8Of table f.message.body = f.trailer
  · rcases frameResponse_of_crc_eq hcrc with ⟨hnone, hresponse⟩ | ⟨m', hsome, hresponse⟩ <;> rw [hresponse]
    · exact .inr (.inr ⟨rfl, htype ▸ ((ofWire_eq_none_of_decodeFrame hf).1 hnone).1⟩)
    · have hwire := toWire_of_ofWire hsome
      rw [← hwire] at htype hsubtype hbody
      refine .inr (.inl ⟨rfl, m', rfl, ?_, htype, hsubtype⟩)
      rintro rfl
      have hk : k < m'.toWire.body.length := hhi.trans_eq (length_toWire_body hwf).symm
      rw [getD_frameBytes_body _ hwf hhi, hbody] at hne
      exact hne (by simp [hk])
  · exact .inl (frameResponse_of_crc_ne hcrc)

end Sys2Proof.Machine


/-! PROOF. The status codes and which requests report an error (60_exceptions.md R230, R233). -/

namespace Sys2Proof.Machine

/-- Settles O7: no code is above 6. -/
theorem statusCodes : Obligations.StatusCodes := by
  refine ⟨rfl, rfl, rfl, rfl, rfl, rfl, rfl, fun st => ?_⟩
  cases st <;> decide

/-- Settles O45: past the guard, or past ENCODE's two checks, the response is built with status `OK`. -/
theorem onlyDecodeReportsErrors : Obligations.OnlyDecodeReportsErrors := by
  intro i s t hnext hrequest hdecode
  cases i <;> simp only [Instr.frame?, Instr.parts, reduceCtorEq] at hrequest
  case write16 | write32 | write64 | read16 | read32 | read64 | crc8 =>
    obtain ⟨-, rfl⟩ := guarded_eq_next.1 hnext
    rfl
  case encode msg view =>
    obtain ⟨-, -, rfl⟩ := execEncode_eq_next.1 hnext
    rfl
  case decode view => exact absurd rfl (hdecode view)

end Sys2Proof.Machine

/-! PROOF. Where a request completes (70_reset_and_hazards.md R263; 60_exceptions.md R235, R238; log entry 5). -/

namespace Sys2Proof.Machine

/-- An outcome that is a next state where a duty is met, and elsewhere a stop for a breach of an operand's duty. -/
def CompletesExactlyWhen (met : Bool) (o : Host.Outcome State Fault Refusal) : Prop :=
  (met = true → ∃ t, o = .next t) ∧
    (met = false → o = .fault .range ∨ o = .fault .capacity ∨ o = .refused .illFormedMessage)

theorem completesExactlyWhen_next (t : State) : CompletesExactlyWhen true (.next t) := ⟨fun _ => ⟨t, rfl⟩, nofun⟩

/-- The guard's duty is the range (20_memory.md R56). -/
theorem completesExactlyWhen_guarded (view : View) (off n : Nat) (k : State) :
    CompletesExactlyWhen (decide (off + n ≤ view.len)) (guarded view off n k) := by
  refine ⟨fun hin => ⟨k, ?_⟩, fun hout => .inl ?_⟩
  · exact guarded_of_le k (of_decide_eq_true hin)
  · exact guarded_of_not_le k (of_decide_eq_false hout)

/-- ENCODE's duties are a well-formed Message and the capacity (42_message_codec.md R171, R172). -/
theorem completesExactlyWhen_encode (m : Message) (view : View) (s : State) :
    CompletesExactlyWhen (m.wf && decide (22 ≤ view.len)) (exec (.encode m view) s) := by
  obtain ⟨hillFormed, hcapacity⟩ := encodeStops m view s
  cases hwf : m.wf with
  | false => exact ⟨nofun, fun _ => .inr (.inr (hillFormed hwf))⟩
  | true =>
    refine ⟨fun hfits => ⟨_, execEncode_eq_next.2 ⟨hwf, of_decide_eq_true hfits, rfl⟩⟩, fun hsmall => .inr (.inl ?_)⟩
    exact hcapacity hwf (Nat.lt_of_not_le (of_decide_eq_false hsmall))

/-- Settles O41: the Integer Codec and CRC8 are guarded, ENCODE makes its two checks, and DECODE and the frame kinds
always answer a next state. -/
theorem completesExactlyWhenDutiesMet : Obligations.CompletesExactlyWhenDutiesMet := by
  intro i s
  change CompletesExactlyWhen i.wf (exec i s)
  cases i with
  | write16 | write32 | write64 | read16 | read32 | read64 | crc8 => exact completesExactlyWhen_guarded _ _ _ _
  | encode m view => exact completesExactlyWhen_encode m view s
  | _ => exact completesExactlyWhen_next _

end Sys2Proof.Machine

/-! PROOF. Reset during a transaction (70_reset_and_hazards.md R260; log entries 3, 18). -/

namespace Sys2Proof.Machine

/-- A prefix of a write leaves the bytes it holds as the whole write does. -/
theorem Memory.read_writeBytes_prefix (m : Memory) (x : Nat) {written planned : List Byte}
    (h : written <+: planned) {o : Nat} (ho : o < written.length) :
    Memory.read (Memory.writeBytes m x written) (x + o) = Memory.read (Memory.writeBytes m x planned) (x + o) := by
  have ho' : o < planned.length := Nat.lt_of_lt_of_le ho h.length_le
  rw [Memory.read_writeBytes, Memory.read_writeBytes, if_pos (by omega), if_pos (by omega), Nat.add_sub_cancel_left,
    List.getD_eq_getElem _ _ ho, List.getD_eq_getElem _ _ ho', h.getElem ho]

/-- Storage after an instruction: its planned bytes are written. -/
theorem mem_of_exec {i : Instr} {s t : State} (h : exec i s = .next t) :
    t.mem = Memory.writeBytes s.mem (plannedWrites i).1 (plannedWrites i).2 :=
  congrArg State.mem (exec_next h).1

/-- The transaction of a request that is taken in and that reset cuts off: what the cut leaves of its outcome. -/
theorem runCut_of_accept {s : State} {r : Request} {i : Instr} (h : (s.issue r).accept r = .ok i) :
    runCut s r = cutOutcome i (s.issue r) (exec i (s.issue r)) := by
  simp only [runCut, h]

/-- A step on a request that reset cuts off, and that would have completed, is its transaction cut short. -/
theorem step_of_cut_request {s t : State} {r : Request} {rest : List Event} {i : Instr}
    (hprogram : s.program = .cutByReset r :: rest) (hdecode : decode (.request r) = .ok i)
    (hview : s.viewShared r.view = false) (hnext : exec i { s with program := rest, req := some r } = .next t) :
    step s = .next (cutShort i { s with program := rest, req := some r }) := by
  have haccept : (State.issue { s with program := rest } r).accept r = .ok i :=
    accept_eq_ok.2 ⟨decode_request_eq_ok.1 hdecode, hview⟩
  calc step s = runCut { s with program := rest } r := step_of_program_cons hprogram
    _ = cutOutcome i { s with program := rest, req := some r } (exec i { s with program := rest, req := some r }) :=
      runCut_of_accept haccept
    _ = .next (cutShort i { s with program := rest, req := some r }) := congrArg (cutOutcome i _) hnext

/-- Settles O51: the bytes written before the cut are a prefix of the planned ones, whose length is `k`. -/
theorem resetDuringTransactionLeavesAPrefix : Obligations.ResetDuringTransactionLeavesAPrefix := by
  intro s t r rest i hprogram hdecode hview hnext
  have hprefix := List.take_prefix (Config.resetPrefix s.draws) (plannedWrites i).2
  refine ⟨_, _, hprefix.length_le, step_of_cut_request hprogram hdecode hview hnext, rfl, rfl, rfl, rfl, rfl,
    fun o ho => ?_, fun a ha => ?_⟩
  · rw [cutShort_mem, mem_of_exec hnext]
    exact Memory.read_writeBytes_prefix s.mem _ hprefix ho
  · rw [cutShort_mem, Memory.read_writeBytes]
    exact if_neg fun ⟨hge, hlt⟩ => ha.elim hge.not_gt hlt.not_ge

end Sys2Proof.Machine
